-- ==== Sys2Proof/Word.lean ====
section
/-!
DEFINITION. The word types of CORE: bytes, 16-bit words, 4-bit fields and 12-bit addresses
(00_scope rule R2, 30_encoding rule R33). All of them are unsigned (R35).
-/
namespace Sys2Proof

/-- A general register, a timer or a byte of memory: 8 bits (R2, `REG_W`, `TIMER_W`). -/
abbrev Byte := BitVec 8

/-- An instruction word, `I`, `pc` or a stack slot: 16 bits (R2, `I_W`, `PC_W`, `STACK_W`). -/
abbrev Word := BitVec 16

/-- A 4-bit instruction field: a register index, a sprite height (R33). -/
abbrev Nibble := BitVec 4

/-- The 12-bit address field `nnn` (R33). -/
abbrev Addr12 := BitVec 12

end Sys2Proof
end

