-- ==== Sys2Proof/Syntax.lean ====
section
/-!
DEFINITION. The 34 instructions of CORE, one constructor per row of the opcode map
(30_encoding rule R38). The operand types are exactly as wide as the fields of R33, so
every term of `Instr` is an instruction the encoding admits.
-/
namespace Sys2Proof

/-- One constructor per row of `spec/opcode_table.json`; the operands are those of R38. The two
shifts keep the ignored field `y` (R35, "operand y is decoded but unused"), so that an instruction
determines its word. -/
inductive Instr where
  /-- `00E0` clear-screen (R80) -/
  | cls
  /-- `00EE` return (R75) -/
  | ret
  /-- `1nnn` jump (R73) -/
  | jp (nnn : Addr12)
  /-- `2nnn` call (R74) -/
  | call (nnn : Addr12)
  /-- `3xkk` skip-if-equal-immediate (R54) -/
  | seImm (x : Nibble) (kk : Byte)
  /-- `4xkk` skip-if-not-equal-immediate (R55) -/
  | sneImm (x : Nibble) (kk : Byte)
  /-- `5xy0` skip-if-registers-equal (R56) -/
  | seReg (x y : Nibble)
  /-- `6xkk` load-immediate (R62) -/
  | ldImm (x : Nibble) (kk : Byte)
  /-- `7xkk` add-immediate (R63) -/
  | addImm (x : Nibble) (kk : Byte)
  /-- `8xy0` copy y to x (R64) -/
  | ldReg (x y : Nibble)
  /-- `8xy1` bitwise OR (R65) -/
  | or (x y : Nibble)
  /-- `8xy2` bitwise AND (R66) -/
  | and (x y : Nibble)
  /-- `8xy3` bitwise XOR (R67) -/
  | xor (x y : Nibble)
  /-- `8xy4` add (R68) -/
  | addReg (x y : Nibble)
  /-- `8xy5` subtract x-y (R69) -/
  | sub (x y : Nibble)
  /-- `8xy6` shift x right by 1 (R70) -/
  | shr (x y : Nibble)
  /-- `8xy7` subtract y-x (R71) -/
  | subn (x y : Nibble)
  /-- `8xyE` shift x left by 1 (R72) -/
  | shl (x y : Nibble)
  /-- `9xy0` skip-if-registers-not-equal (R57) -/
  | sneReg (x y : Nibble)
  /-- `Annn` load-index (R87) -/
  | ldI (nnn : Addr12)
  /-- `Bnnn` jump-with-offset (R76) -/
  | jpV0 (nnn : Addr12)
  /-- `Cxkk` random-and-mask (R82) -/
  | rnd (x : Nibble) (kk : Byte)
  /-- `Dxyn` draw-sprite (R81) -/
  | drw (x y n : Nibble)
  /-- `Ex9E` skip-if-key-pressed (R58) -/
  | skp (x : Nibble)
  /-- `ExA1` skip-if-key-not-pressed (R59) -/
  | sknp (x : Nibble)
  /-- `Fx07` read-delay-timer (R83) -/
  | ldVxDt (x : Nibble)
  /-- `Fx0A` block-for-key (R84) -/
  | ldVxK (x : Nibble)
  /-- `Fx15` write-delay-timer (R85) -/
  | ldDtVx (x : Nibble)
  /-- `Fx18` write-sound-timer (R86) -/
  | ldStVx (x : Nibble)
  /-- `Fx1E` add-to-index (R88) -/
  | addI (x : Nibble)
  /-- `Fx29` load-font-address (R89) -/
  | ldF (x : Nibble)
  /-- `Fx33` store-BCD (R90) -/
  | ldB (x : Nibble)
  /-- `Fx55` store-registers-to-memory (R91) -/
  | stRegs (x : Nibble)
  /-- `Fx65` load-registers-from-memory (R92) -/
  | ldRegs (x : Nibble)
  deriving DecidableEq, Repr

end Sys2Proof
end

