-- ==== Sys2Proof/Decode.lean ====
section
/-!
DEFINITION. The decoder (30_encoding rules R32 to R37) and, after it, the encoder written from
the same opcode map (R38).
-/
namespace Sys2Proof

/-- What the decoder answers: one of the 34 operations with its operands, or `INVALID(op)`
(R36; 35 outcomes, R41). -/
inductive Decoded where
  | op (i : Instr)
  | invalid (w : Word)
  deriving DecidableEq, Repr

/-- The word of two consecutive bytes, the first one high (R32, "first byte is high byte"). -/
def wordOfBytes (b0 b1 : Byte) : Word := b0 ++ b1

/-- The high byte of a word: the one stored at the lower address (R32). -/
def highByte (w : Word) : Byte := w.extractLsb' 8 8

/-- The low byte of a word, which is also the field `kk` (R33). -/
def lowByte (w : Word) : Byte := w.extractLsb' 0 8

/-- `n3 = op[15:12]`, the primary opcode (R33). -/
def fieldN3 (w : Word) : Nibble := w.extractLsb' 12 4

/-- `x = op[11:8]` (R33). -/
def fieldX (w : Word) : Nibble := w.extractLsb' 8 4

/-- `y = op[7:4]` (R33). -/
def fieldY (w : Word) : Nibble := w.extractLsb' 4 4

/-- `n = op[3:0]` (R33). -/
def fieldN (w : Word) : Nibble := w.extractLsb' 0 4

/-- `kk = op[7:0]` (R33). -/
def fieldKk (w : Word) : Byte := lowByte w

/-- `nnn = op[11:0]` (R33). -/
def fieldNnn (w : Word) : Addr12 := w.extractLsb' 0 12

/-- `Decode(op)` (R36), total and pure (R37). -/
def decode (w : Word) : Decoded :=
  let x := fieldX w
  let y := fieldY w
  let n := fieldN w
  let kk := fieldKk w
  let nnn := fieldNnn w
  match (fieldN3 w).toNat with
  | 0x0 => if w = 0x00E0 then .op .cls else if w = 0x00EE then .op .ret else .invalid w
  | 0x1 => .op (.jp nnn)
  | 0x2 => .op (.call nnn)
  | 0x3 => .op (.seImm x kk)
  | 0x4 => .op (.sneImm x kk)
  | 0x5 => if n = 0 then .op (.seReg x y) else .invalid w
  | 0x6 => .op (.ldImm x kk)
  | 0x7 => .op (.addImm x kk)
  | 0x8 =>
    match n.toNat with
    | 0x0 => .op (.ldReg x y)
    | 0x1 => .op (.or x y)
    | 0x2 => .op (.and x y)
    | 0x3 => .op (.xor x y)
    | 0x4 => .op (.addReg x y)
    | 0x5 => .op (.sub x y)
    | 0x6 => .op (.shr x y)
    | 0x7 => .op (.subn x y)
    | 0xE => .op (.shl x y)
    | _ => .invalid w
  | 0x9 => if n = 0 then .op (.sneReg x y) else .invalid w
  | 0xA => .op (.ldI nnn)
  | 0xB => .op (.jpV0 nnn)
  | 0xC => .op (.rnd x kk)
  | 0xD => .op (.drw x y n)
  | 0xE => if kk = 0x9E then .op (.skp x) else if kk = 0xA1 then .op (.sknp x) else .invalid w
  | _ =>
    match kk.toNat with
    | 0x07 => .op (.ldVxDt x)
    | 0x0A => .op (.ldVxK x)
    | 0x15 => .op (.ldDtVx x)
    | 0x18 => .op (.ldStVx x)
    | 0x1E => .op (.addI x)
    | 0x29 => .op (.ldF x)
    | 0x33 => .op (.ldB x)
    | 0x55 => .op (.stRegs x)
    | 0x65 => .op (.ldRegs x)
    | _ => .invalid w

/-- The decoder on the two bytes of memory at an instruction's address (R32). -/
def decodeBytes (b0 b1 : Byte) : Decoded := decode (wordOfBytes b0 b1)

/-- The word of an instruction (R38). -/
def encode : Instr → Word
  | .cls => 0x00E0
  | .ret => 0x00EE
  | .jp nnn => 0x1#4 ++ nnn
  | .call nnn => 0x2#4 ++ nnn
  | .seImm x kk => 0x3#4 ++ x ++ kk
  | .sneImm x kk => 0x4#4 ++ x ++ kk
  | .seReg x y => 0x5#4 ++ x ++ y ++ 0x0#4
  | .ldImm x kk => 0x6#4 ++ x ++ kk
  | .addImm x kk => 0x7#4 ++ x ++ kk
  | .ldReg x y => 0x8#4 ++ x ++ y ++ 0x0#4
  | .or x y => 0x8#4 ++ x ++ y ++ 0x1#4
  | .and x y => 0x8#4 ++ x ++ y ++ 0x2#4
  | .xor x y => 0x8#4 ++ x ++ y ++ 0x3#4
  | .addReg x y => 0x8#4 ++ x ++ y ++ 0x4#4
  | .sub x y => 0x8#4 ++ x ++ y ++ 0x5#4
  | .shr x y => 0x8#4 ++ x ++ y ++ 0x6#4
  | .subn x y => 0x8#4 ++ x ++ y ++ 0x7#4
  | .shl x y => 0x8#4 ++ x ++ y ++ 0xE#4
  | .sneReg x y => 0x9#4 ++ x ++ y ++ 0x0#4
  | .ldI nnn => 0xA#4 ++ nnn
  | .jpV0 nnn => 0xB#4 ++ nnn
  | .rnd x kk => 0xC#4 ++ x ++ kk
  | .drw x y n => 0xD#4 ++ x ++ y ++ n
  | .skp x => 0xE#4 ++ x ++ 0x9E#8
  | .sknp x => 0xE#4 ++ x ++ 0xA1#8
  | .ldVxDt x => 0xF#4 ++ x ++ 0x07#8
  | .ldVxK x => 0xF#4 ++ x ++ 0x0A#8
  | .ldDtVx x => 0xF#4 ++ x ++ 0x15#8
  | .ldStVx x => 0xF#4 ++ x ++ 0x18#8
  | .addI x => 0xF#4 ++ x ++ 0x1E#8
  | .ldF x => 0xF#4 ++ x ++ 0x29#8
  | .ldB x => 0xF#4 ++ x ++ 0x33#8
  | .stRegs x => 0xF#4 ++ x ++ 0x55#8
  | .ldRegs x => 0xF#4 ++ x ++ 0x65#8

/-- The word whose table bits are `w`: the table gives each row 16 bits, bit 0 the least
significant of the one word; bits from `nbits` up are 0. -/
def tableWord (nbits w : Nat) : Word := BitVec.ofNat 16 (w % 2 ^ nbits)

/-- The instruction the decoder reads from the two bytes of a table word, high byte first (R32);
`none` where the decoder answers INVALID. -/
def decodeTableWord (nbits w : Nat) : Option Instr :=
  match decodeBytes (highByte (tableWord nbits w)) (lowByte (tableWord nbits w)) with
  | .op i => some i
  | .invalid _ => none

end Sys2Proof
end

