-- ==== Sys2Proof/Config.lean ====
section
/-!
DEFINITION. What is fixed for the machine (00_scope rule R2) and the one value the spec leaves
free, the random byte (40_cycle_driver rule R52).
-/
namespace Sys2Proof

/-- What a sprite pixel past the framebuffer edge does (44_graphics R79, 93 U3): the two policies
the source names. -/
inductive EdgePolicy where
  /-- each coordinate is reduced modulo 64 or 32 -/
  | wrap
  /-- a pixel outside the 64 by 32 cells is left out -/
  | clip
  deriving DecidableEq, Repr

namespace Config

/-- `MEM_SIZE` (R2). -/
def memSize : Nat := 4096

/-- `PROG_BASE` (R2): the reset value of `pc` and the address the ROM is copied to. -/
def progBase : Nat := 0x200

/-- The most bytes a ROM may have: `MEM_SIZE - PROG_BASE` = 3584 (20_memory R26). -/
def romMax : Nat := 3584

/-- `GLYPH_BYTES` (R2): the multiplier of `Fx29`. -/
def glyphBytes : Word := 5

/-- `EDGE_POLICY = WRAP` (R2, R79, the spec's decision D13; log 7). -/
def edgePolicy : EdgePolicy := .wrap

/-- FREE VALUE (log 3). `rand k` is the byte the host supplies with the Cycle that runs the `k`-th
`Cxkk` (R14a, R52: "a free input under no law"). It has no body, so whatever is proved holds for
every sequence of random bytes. -/
opaque rand : Nat → Byte

end Config

end Sys2Proof
end

