-- ==== Sys2Proof/Machine/Event.lean ====
section
/-!
DEFINITION. The five events that drive CORE (00_scope rule R3), as plain data.
-/
namespace Sys2Proof.Machine

/-- The host's events (R3). The random byte of `Cycle(rand)` is the free value `Config.rand`
(log 3), so `cycle` carries none. -/
inductive Event where
  /-- `Reset` (70_reset_and_hazards R106) -/
  | reset
  /-- `LoadROM(bytes)` (20_memory R26) -/
  | loadRom (bytes : List Byte)
  /-- `Cycle(rand)` (40_cycle_driver R43) -/
  | cycle
  /-- `Tick` (40_cycle_driver R48) -/
  | tick
  /-- `SetKey(n, pressed)` (40_cycle_driver R50) -/
  | setKey (n : Nat) (pressed : Bool)
  deriving DecidableEq, Repr

end Sys2Proof.Machine
end

