-- ==== Sys2Proof/Machine/State.lean ====
section
/-!
DEFINITION. The state of CORE as plain data (10_state rules R4 to R16), the fault record
(60_exceptions R97), and the state after reset.
-/
namespace Sys2Proof.Machine

/-- Main memory as the list of its nonzero bytes, addresses strictly rising: an unlisted address
reads as 0, the reset content (R12, R16). `Memory.wf` states the form. -/
abbrev Memory := List Host.Cell

/-- The framebuffer: 32 rows of 64 one-bit cells; the cell `FB[c]` of R10, `c = cy*64 + cx`, is the
bit `cx` of the row `cy`. -/
abbrev Framebuffer := Vector (BitVec 64) 32

/-- `STATUS` (R13). -/
inductive Status where
  | running
  | halted
  deriving DecidableEq, Repr

/-- The three kinds of fault (60_exceptions R93). -/
inductive FaultKind where
  | invalidOpcode
  | stackViolation
  | outOfRange
  deriving DecidableEq, Repr

/-- The causes of R93's table, one per row. -/
inductive FaultCause where
  /-- the only cause of `InvalidOpcode` (R94) -/
  | invalidOpcode
  /-- `StackViolation`: `2nnn` with 16 addresses on the stack (R95) -/
  | overflow
  /-- `StackViolation`: `00EE` on an empty stack (R95) -/
  | underflow
  /-- `OutOfRange`: the instruction fetch (R44) -/
  | fetch
  /-- `OutOfRange`: a byte read by `Dxyn` or `Fx65` (R96) -/
  | dataRead
  /-- `OutOfRange`: a byte written by `Fx33` or `Fx55` (R96) -/
  | dataWrite
  /-- `OutOfRange`: the key number of `Ex9E` or `ExA1` (R58, R59) -/
  | key
  deriving DecidableEq, Repr

/-- The record `FAULT = (kind, cause, opcode, pc, info)` (R97). -/
structure FaultRecord where
  kind : FaultKind
  cause : FaultCause
  opcode : Word
  pc : Word
  info : Nat
  deriving DecidableEq, Repr

/-- The state of CORE: R15's list, then three fields of the model's own. -/
structure State where
  /-- `V[0]`..`V[15]` (R4); `VF` is `V[15]` (R5) -/
  v : Vector Byte 16
  /-- `I` (R6) -/
  i : Word
  /-- `pc` (R7): between events, the address of the next instruction -/
  pc : Word
  /-- `STACK[0]`..`STACK[15]` (R8) -/
  stack : Vector Word 16
  /-- `SP`, 0..16 (R8) -/
  sp : Fin 17
  /-- `DT` (R9) -/
  dt : Byte
  /-- `ST` (R9) -/
  st : Byte
  /-- `FB` (R10) -/
  fb : Framebuffer
  /-- `KEYS` (R11), true = pressed -/
  keys : Vector Bool 16
  /-- `MEM` (R12) -/
  mem : Memory
  /-- `STATUS` (R13) -/
  status : Status
  /-- `FAULT` (R13, R97) -/
  fault : Option FaultRecord
  /-- MODEL'S OWN (log 2): the host's coming events, the next one first; none listed means that
  the next event is a Cycle (R3, R51). -/
  events : List Event
  /-- MODEL'S OWN (log 3): the index of the next free random byte (R14a, R52). -/
  draws : Nat
  /-- MODEL'S OWN (log 4): the `tone_start` result of the last Tick handled (R14b, R49). -/
  lastTone : Bool
  deriving DecidableEq, Repr

/-- Host faults. There is none: every fault of the spec is a state of the machine, `STATUS = HALTED`
with a record in `FAULT` (R13, R46, R100), so a step that raises one answers a NEXT state (log 1). -/
inductive Fault where
  deriving DecidableEq, Repr

/-- Why a step has no meaning. All are safe: the model stops where the spec gives no effect. -/
inductive Refusal where
  /-- Raised by `exec` for an instruction without a meaning; no instruction is in that case. Safe. -/
  | notModelled (mnemonic : String)
  /-- Raised by `loadRom` for a ROM of more than 3584 bytes, to which the spec "gives ... no meaning
  (a model refuses it)" (20_memory R26, D21; log 5). Safe. -/
  | romTooLong (length : Nat)
  /-- Raised by `setKey` for a key number above 15: "outside the interface: the source gives it no
  meaning and a model refuses it" (40_cycle_driver R50, D29; log 5). Safe. -/
  | keyOutOfRange (n : Nat)
  /-- Raised by `placeLow`, the launch step of R107 (3), for an image longer than the 512 bytes
  below the program (log 12). Safe. -/
  | lowImageTooLong (length : Nat)
  deriving DecidableEq, Repr

/-- The machine after `Reset`: the table of R16. The last three fields are the model's own
(logs 2, 3, 4). -/
def State.reset : State where
  v := Vector.replicate 16 0
  i := 0
  pc := BitVec.ofNat 16 Config.progBase
  stack := Vector.replicate 16 0
  sp := 0
  dt := 0
  st := 0
  fb := Vector.replicate 32 0
  keys := Vector.replicate 16 false
  mem := []
  status := .running
  fault := none
  events := []
  draws := 0
  lastTone := false

end Sys2Proof.Machine
end

