-- ==== Sys2Proof/Machine/Ops.lean ====
section
/-!
DEFINITION. The named operations over memory, registers, stack and program counter, and the one
operation that takes a fault (40_cycle_driver R46, 60_exceptions R97), with the Reset that alone
leaves the halted state beside it (R47, R106).
-/
namespace Sys2Proof.Machine

/-! ## Memory (20_memory) -/

/-- What an address no entry lists reads as: 0, the reset content of memory (R12, R16). -/
def Memory.unlisted : Byte := 0

/-- `MEM[a]`, raw (R19). -/
def Memory.read (a : Nat) : Memory → Byte
  | [] => Memory.unlisted
  | c :: m => if a = c.1 then c.2 else Memory.read a m

/-- The memory without any entry for `a`. -/
def Memory.erase (a : Nat) (m : Memory) : Memory := m.filter fun c => c.1 != a

/-- A new entry, put where the rising order wants it. -/
def Memory.insert (a : Nat) (b : Byte) : Memory → Memory
  | [] => [(a, b)]
  | c :: m => if a < c.1 then (a, b) :: c :: m else c :: Memory.insert a b m

/-- `MEM[a] <- b`, raw; writing the unlisted value takes the entry away. -/
def Memory.write (a : Nat) (b : Byte) (m : Memory) : Memory :=
  if b = Memory.unlisted then Memory.erase a m else Memory.insert a b (Memory.erase a m)

/-- Consecutive bytes from `base` on, lowest address first (R24). -/
def Memory.writeList (base : Nat) : List Byte → Memory → Memory
  | [], m => m
  | b :: bs, m => Memory.writeList (base + 1) bs (Memory.write base b m)

/-- The canonical form: every entry inside 0..0xFFF and not the unlisted value, addresses strictly
rising. -/
def Memory.wf : Memory → Bool
  | [] => true
  | c :: m =>
    decide (c.1 < Config.memSize) && c.2 != Memory.unlisted
      && m.all (fun d => decide (c.1 < d.1)) && Memory.wf m

/-- `MemRead(addr, 1)` (R20): the byte, or the address that is out of range. -/
def State.memRead (s : State) (a : Nat) : Except Nat Byte :=
  if a ≤ 0xFFF then .ok (s.mem.read a) else .error a

/-- `MemWrite(addr, 1, b)` (R20): the state with the byte stored, or the address that is out of
range. -/
def State.memWrite (s : State) (a : Nat) (b : Byte) : Except Nat State :=
  if a ≤ 0xFFF then .ok { s with mem := s.mem.write a b } else .error a

/-- `n` bytes from `base` on, ascending (R21, R24); the first address out of range ends it. -/
def State.readBytes (s : State) (base : Nat) : Nat → Except Nat (List Byte)
  | 0 => .ok []
  | n + 1 =>
    match s.memRead base with
    | .error a => .error a
    | .ok b =>
      match s.readBytes (base + 1) n with
      | .error a => .error a
      | .ok bs => .ok (b :: bs)

/-- The bytes stored from `base` on, ascending (R21, R24); the first address out of range ends it,
and the caller then drops every byte stored (R46). -/
def State.writeBytes (s : State) (base : Nat) : List Byte → Except Nat State
  | [] => .ok s
  | b :: bs =>
    match s.memWrite base b with
    | .error a => .error a
    | .ok t => t.writeBytes (base + 1) bs

/-- Instruction fetch, `MemRead(pc0, 2)` (R44): the big-endian word at `pc`, at any parity (R23),
or the lowest address of the two that is out of range. -/
def State.fetchWord (s : State) : Except Nat Word :=
  match s.memRead s.pc.toNat with
  | .error a => .error a
  | .ok b0 =>
    match s.memRead (s.pc.toNat + 1) with
    | .error a => .error a
    | .ok b1 => .ok (wordOfBytes b0 b1)

/-! ## Registers (10_state) -/

/-- Read `V[x]` (R4). -/
def State.reg (s : State) (x : Nibble) : Byte := s.v[x.toNat]'x.isLt

/-- `V[x] <- b` (R4). -/
def State.setReg (s : State) (x : Nibble) (b : Byte) : State :=
  { s with v := s.v.set x.toNat b x.isLt }

/-- `V[k], V[k+1], ...` loaded from the list, ascending (46_index_memory R92). -/
def State.setRegsFrom (s : State) (k : Nat) : List Byte → State
  | [] => s
  | b :: bs => (s.setReg (BitVec.ofNat 4 k) b).setRegsFrom (k + 1) bs

/-- The register named by the index 15, `VF` (R5). -/
def vf : Nibble := 15

/-- `VF <- f` (R5). -/
def State.setFlag (s : State) (f : Byte) : State := s.setReg vf f

/-- `I <- a` (R6). -/
def State.setI (s : State) (a : Word) : State := { s with i := a }

/-- `DT <- b` (R9). -/
def State.setDt (s : State) (b : Byte) : State := { s with dt := b }

/-- `ST <- b` (R9). -/
def State.setSt (s : State) (b : Byte) : State := { s with st := b }

/-- `FB <- f` (R10). -/
def State.setFb (s : State) (f : Framebuffer) : State := { s with fb := f }

/-! ## Program counter and stack -/

/-- The default advance, `pc <- pc0 + 2` (R45). -/
def State.advance (s : State) : State := { s with pc := s.pc + 2 }

/-- `Fx0A`'s hold, `pc <- pc - 2` (45_random_keypad_timers R84). -/
def State.rewind (s : State) : State := { s with pc := s.pc - 2 }

/-- `pc <- target` (43_control_flow). -/
def State.jump (s : State) (target : Word) : State := { s with pc := target }

/-- A further `pc <- pc + 2` when the condition holds (41_skips R53). -/
def State.skipIf (s : State) (c : Bool) : State := if c then { s with pc := s.pc + 2 } else s

/-- Push `a` on the call stack (R8, R74); `none` with 16 addresses on it. -/
def State.push (s : State) (a : Word) : Option State :=
  if h : s.sp.val < 16 then
    some { s with stack := s.stack.set s.sp.val a h, sp := ⟨s.sp.val + 1, by omega⟩ }
  else none

/-- Pop the call stack (R8, R75); `none` when it is empty. The popped slot keeps its value. -/
def State.pop (s : State) : Option (Word × State) :=
  if h : 0 < s.sp.val then
    some (s.stack[s.sp.val - 1]'(by omega), { s with sp := ⟨s.sp.val - 1, by omega⟩ })
  else none

/-! ## Faults (60_exceptions) -/

/-- The kind a cause belongs to (R93). -/
def FaultCause.kind : FaultCause → FaultKind
  | .invalidOpcode => .invalidOpcode
  | .overflow => .stackViolation
  | .underflow => .stackViolation
  | .fetch => .outOfRange
  | .dataRead => .outOfRange
  | .dataWrite => .outOfRange
  | .key => .outOfRange

/-- The kind codes of R93. -/
def FaultKind.code : FaultKind → Nat
  | .invalidOpcode => 1
  | .stackViolation => 2
  | .outOfRange => 3

/-- The cause codes of R93. -/
def FaultCause.code : FaultCause → Nat
  | .invalidOpcode => 0
  | .overflow => 1
  | .underflow => 2
  | .fetch => 1
  | .dataRead => 2
  | .dataWrite => 3
  | .key => 4

/-- `raise` (R46, R97, R100), applied to the state BEFORE the event, so that every change the event
made is discarded, the advance of `pc` with it: `STATUS <- HALTED`, `FAULT` filled, nothing else
touched. `opcode` is the word being executed, 0 when none was obtained. -/
def State.raise (s : State) (c : FaultCause) (opcode : Word) (info : Nat) : State :=
  { s with
    status := .halted
    fault := some { kind := c.kind, cause := c, opcode := opcode, pc := s.pc, info := info } }

/-- The `Reset` event (70_reset_and_hazards R106): every element of CORE at its value of R16. There
is no return from a fault (R101); this alone leaves the halted state. The model's own inputs, the
coming events and the coming random bytes, are the host's and stay (logs 2, 3). -/
def State.restart (s : State) : State :=
  { State.reset with events := s.events, draws := s.draws }

end Sys2Proof.Machine
end

