-- ==== Sys2Proof/Machine/Operands.lean ====
section
/-!
DEFINITION. The computed operands (30_encoding R35, 20_memory R21, 44_graphics R78, R79): the
widened address, the register list of `Fx55`, decimal digits, the least pressed key, and the cells
a sprite touches.
-/
namespace Sys2Proof.Machine

/-- `zext_16(nnn)` (R35). -/
def addrOf (nnn : Addr12) : Word := nnn.setWidth 16

/-- `zext_16(b)` of a register value (R76, R88, R89). -/
def zextByte (b : Byte) : Word := b.setWidth 16

/-- The base address of an `I`-based access, an unbounded integer (R21). -/
def State.indexBase (s : State) : Nat := s.i.toNat

/-- `V[0], ..., V[x]`, the values `Fx55` stores (46_index_memory R91). -/
def State.regsUpTo (s : State) (x : Nibble) : List Byte :=
  (List.range (x.toNat + 1)).map fun k => s.reg (BitVec.ofNat 4 k)

/-- Hundreds, tens and ones of a byte, each a byte 0..9 (46_index_memory R90). -/
def bcdDigits (b : Byte) : List Byte :=
  [BitVec.ofNat 8 (b.toNat / 100), BitVec.ofNat 8 (b.toNat / 10 % 10), BitVec.ofNat 8 (b.toNat % 10)]

/-- `KEYS[k]`, for a number that may be outside the keypad: `none` above 15 (41_skips R58). -/
def State.keyState (s : State) (k : Nat) : Option Bool := s.keys[k]?

/-- The least pressed key, if any (45_random_keypad_timers R84); key 0 is a key like any other. -/
def State.lowestKey (s : State) : Option Nat := s.keys.toList.findIdx? id

/-- The cell of an unwrapped position `(px, py)` (44_graphics R78, R79; 93 U3 for `clip`). -/
def pixelCell : EdgePolicy → Nat → Nat → Option (Fin 2048)
  | .wrap, px, py => some ⟨py % 32 * 64 + px % 64, by omega⟩
  | .clip, px, py => if h : px ≤ 63 ∧ py ≤ 31 then some ⟨py * 64 + px, by omega⟩ else none

/-- The cells the set bits of one sprite byte touch, column 0 (bit 7) first (R78, R81). -/
def rowCells (p : EdgePolicy) (bx py : Nat) (b : Byte) : List (Fin 2048) :=
  (List.range 8).filterMap fun c => if b.getLsbD (7 - c) then pixelCell p (bx + c) py else none

/-- The cells the set bits of a sprite touch, row 0 first (R78, R81). -/
def spriteCells (p : EdgePolicy) (bx py : Nat) : List Byte → List (Fin 2048)
  | [] => []
  | b :: bs => rowCells p bx py b ++ spriteCells p bx (py + 1) bs

end Sys2Proof.Machine
end

