-- ==== Sys2Proof/Machine/Flags.lean ====
section
/-!
DEFINITION. Every value written to `VF` as a side effect (10_state R5, 42_alu R60, R61): always
0 or 1.
-/
namespace Sys2Proof.Machine

/-- A flag value: 1 or 0 (R5). -/
def flagOf (c : Bool) : Byte := if c then 1 else 0

/-- Carry out of bit 7 (R61, R68). -/
def carryFlag (a b : Byte) : Byte := flagOf (decide (a.toNat + b.toNat > 255))

/-- NOT borrow of `a - b`: 1 iff `a >= b` (R61, R69, R71). -/
def noBorrowFlag (a b : Byte) : Byte := flagOf (decide (a.toNat ≥ b.toNat))

/-- The bit `SHR` shifts out: old bit 0 (R70). -/
def lsbFlag (a : Byte) : Byte := flagOf (a.getLsbD 0)

/-- The bit `SHL` shifts out: old bit 7 (R72). -/
def msbFlag (a : Byte) : Byte := flagOf (a.getLsbD 7)

/-- Result to `V[x]`, then the flag to `VF`: the flag is written last (R60). -/
def State.setResultFlag (s : State) (x : Nibble) (result flag : Byte) : State :=
  (s.setReg x result).setFlag flag

end Sys2Proof.Machine
end

