-- ==== Sys2Proof/Machine/Control.lean ====
section
/-!
DEFINITION. Jump, call and return (43_control_flow R73 to R76).
-/
namespace Sys2Proof.Machine

/-- `1nnn` (R73). -/
def execJp (nnn : Addr12) (s : State) : Host.Outcome State Fault Refusal :=
  .next (s.jump (addrOf nnn))

/-- `2nnn` (R74): pushes the address of the next instruction. -/
def execCall (nnn : Addr12) (s : State) : Host.Outcome State Fault Refusal :=
  match s.push s.advance.pc with
  | none => .next (s.raise .overflow (encode (.call nnn)) s.sp.val)
  | some t => .next (t.jump (addrOf nnn))

/-- `00EE` (R75). -/
def execRet (s : State) : Host.Outcome State Fault Refusal :=
  match s.pop with
  | none => .next (s.raise .underflow (encode .ret) s.sp.val)
  | some (a, t) => .next (t.jump a)

/-- `Bnnn` (R76): always `V[0]`, no masking. -/
def execJpV0 (nnn : Addr12) (s : State) : Host.Outcome State Fault Refusal :=
  .next (s.jump (addrOf nnn + zextByte (s.reg 0)))

end Sys2Proof.Machine
end

