-- ==== Sys2Proof/Machine/Graphics.lean ====
section
/-!
DEFINITION. The framebuffer instructions (44_graphics R78 to R81).
-/
namespace Sys2Proof.Machine

/-- Every cell off (R80). -/
def blankScreen : Framebuffer := Vector.replicate 32 0

/-- `FB[c]` (R10): bit `c mod 64` of row `c div 64`. -/
def Framebuffer.cell (fb : Framebuffer) (c : Fin 2048) : Bool :=
  (fb[c.val / 64]'(by omega)).getLsbD (c.val % 64)

/-- `FB[c] <- FB[c] XOR 1` (R81). -/
def Framebuffer.toggle (fb : Framebuffer) (c : Fin 2048) : Framebuffer :=
  fb.set (c.val / 64) (fb[c.val / 64]'(by omega) ^^^ (1#64 <<< (c.val % 64))) (by omega)

/-- Toggle the listed cells one after the other, noting whether one of them was on before its
toggle (R81). -/
def toggleCells (fb : Framebuffer) (hit : Bool) : List (Fin 2048) → Framebuffer × Bool
  | [] => (fb, hit)
  | c :: cs => toggleCells (fb.toggle c) (hit || fb.cell c) cs

/-- The cells the sprite `rows` touches at the coordinates `V[x]`, `V[y]` held before the
instruction (R81). -/
def State.spriteAt (s : State) (x y : Nibble) (rows : List Byte) : List (Fin 2048) :=
  spriteCells Config.edgePolicy (s.reg x).toNat (s.reg y).toNat rows

/-- `00E0` (R80). -/
def execCls (s : State) : Host.Outcome State Fault Refusal :=
  .next (s.advance.setFb blankScreen)

/-- `Dxyn` (R81): `VF` is cleared, then set if a lit cell was toggled off; with `n = 0` no byte is
read, so nothing can fault. -/
def execDrw (x y n : Nibble) (s : State) : Host.Outcome State Fault Refusal :=
  match s.readBytes s.indexBase n.toNat with
  | .error a => .next (s.raise .dataRead (encode (.drw x y n)) a)
  | .ok rows =>
    let drawn := toggleCells s.fb false (s.spriteAt x y rows)
    .next ((s.advance.setFb drawn.1).setFlag (flagOf drawn.2))

end Sys2Proof.Machine
end

