-- ==== Sys2Proof/Machine/Index.lean ====
section
/-!
DEFINITION. The index register and memory load/store (46_index_memory R87 to R92). No instruction
here but the first three changes `I`.
-/
namespace Sys2Proof.Machine

/-- `Annn` (R87). -/
def execLdI (nnn : Addr12) (s : State) : Host.Outcome State Fault Refusal :=
  .next (s.advance.setI (addrOf nnn))

/-- `Fx1E` (R88): wraps at 16 bits, no flag. -/
def execAddI (x : Nibble) (s : State) : Host.Outcome State Fault Refusal :=
  .next (s.advance.setI (s.i + zextByte (s.reg x)))

/-- `Fx29` (R89): the whole byte times 5, no base. -/
def execLdF (x : Nibble) (s : State) : Host.Outcome State Fault Refusal :=
  .next (s.advance.setI (zextByte (s.reg x) * Config.glyphBytes))

/-- `Fx33` (R90). -/
def execLdB (x : Nibble) (s : State) : Host.Outcome State Fault Refusal :=
  match s.advance.writeBytes s.indexBase (bcdDigits (s.reg x)) with
  | .error a => .next (s.raise .dataWrite (encode (.ldB x)) a)
  | .ok t => .next t

/-- `Fx55` (R91). -/
def execStRegs (x : Nibble) (s : State) : Host.Outcome State Fault Refusal :=
  match s.advance.writeBytes s.indexBase (s.regsUpTo x) with
  | .error a => .next (s.raise .dataWrite (encode (.stRegs x)) a)
  | .ok t => .next t

/-- `Fx65` (R92). -/
def execLdRegs (x : Nibble) (s : State) : Host.Outcome State Fault Refusal :=
  match s.readBytes s.indexBase (x.toNat + 1) with
  | .error a => .next (s.raise .dataRead (encode (.ldRegs x)) a)
  | .ok bytes => .next (s.advance.setRegsFrom 0 bytes)

end Sys2Proof.Machine
end

