-- ==== Sys2Proof/Machine/Input.lean ====
section
/-!
DEFINITION. Random, key wait and timer access (45_random_keypad_timers R82 to R86).
-/
namespace Sys2Proof.Machine

/-- The free random byte of this draw; the next draw has one of its own (R52, log 3). -/
def State.rand (s : State) : Byte := Config.rand s.draws

/-- `Cxkk` (R82). -/
def execRnd (x : Nibble) (kk : Byte) (s : State) : Host.Outcome State Fault Refusal :=
  .next { s.advance.setReg x (s.rand &&& kk) with draws := s.draws + 1 }

/-- `Fx07` (R83). -/
def execLdVxDt (x : Nibble) (s : State) : Host.Outcome State Fault Refusal :=
  .next (s.advance.setReg x s.dt)

/-- `Fx0A` (R84): the least pressed key, or `pc` back to this instruction when none is pressed. -/
def execLdVxK (x : Nibble) (s : State) : Host.Outcome State Fault Refusal :=
  match s.lowestKey with
  | some k => .next (s.advance.setReg x (BitVec.ofNat 8 k))
  | none => .next s.advance.rewind

/-- `Fx15` (R85). -/
def execLdDtVx (x : Nibble) (s : State) : Host.Outcome State Fault Refusal :=
  .next (s.advance.setDt (s.reg x))

/-- `Fx18` (R86). -/
def execLdStVx (x : Nibble) (s : State) : Host.Outcome State Fault Refusal :=
  .next (s.advance.setSt (s.reg x))

end Sys2Proof.Machine
end

