-- ==== Sys2Proof/Machine/Skips.lean ====
section
/-!
DEFINITION. The six conditional skips (41_skips R53 to R59).
-/
namespace Sys2Proof.Machine

/-- `3xkk` (R54). -/
def execSeImm (x : Nibble) (kk : Byte) (s : State) : Host.Outcome State Fault Refusal :=
  .next (s.advance.skipIf (s.reg x == kk))

/-- `4xkk` (R55). -/
def execSneImm (x : Nibble) (kk : Byte) (s : State) : Host.Outcome State Fault Refusal :=
  .next (s.advance.skipIf (s.reg x != kk))

/-- `5xy0` (R56). -/
def execSeReg (x y : Nibble) (s : State) : Host.Outcome State Fault Refusal :=
  .next (s.advance.skipIf (s.reg x == s.reg y))

/-- `9xy0` (R57). -/
def execSneReg (x y : Nibble) (s : State) : Host.Outcome State Fault Refusal :=
  .next (s.advance.skipIf (s.reg x != s.reg y))

/-- `Ex9E` (R58): a key number above 15 faults, it is not masked. -/
def execSkp (x : Nibble) (s : State) : Host.Outcome State Fault Refusal :=
  match s.keyState (s.reg x).toNat with
  | none => .next (s.raise .key (encode (.skp x)) (s.reg x).toNat)
  | some pressed => .next (s.advance.skipIf pressed)

/-- `ExA1` (R59). -/
def execSknp (x : Nibble) (s : State) : Host.Outcome State Fault Refusal :=
  match s.keyState (s.reg x).toNat with
  | none => .next (s.raise .key (encode (.sknp x)) (s.reg x).toNat)
  | some pressed => .next (s.advance.skipIf (!pressed))

end Sys2Proof.Machine
end

