-- ==== Sys2Proof/WellFormed.lean ====
section
/-!
DEFINITION. The checks of what comes from outside the machine: the rows of the opcode map
(30_encoding rule R38), the words they admit (R36), and the host's events (20_memory R26,
40_cycle_driver R50). A term of `Instr` needs no check of its own: its operands are typed by the
field widths of R33.
-/
namespace Sys2Proof

/-- One row of the opcode map: a word decodes to the row iff `word AND mask = bits` (R36). -/
structure Row where
  mnemonic : String
  bits : Word
  mask : Word
  deriving DecidableEq, Repr

/-- The row admits the word (R36). -/
def Row.admits (r : Row) (w : Word) : Bool := (w &&& r.mask) == r.bits

/-- A row fixes no bit outside its mask; otherwise no word could match it. -/
def Row.wellFormed (r : Row) : Bool := (r.bits &&& ~~~r.mask) == 0

/-- No word matches both rows: they differ in a bit both fix (R36, "pairwise disjoint"). -/
def Row.disjoint (r q : Row) : Bool := ((r.bits ^^^ q.bits) &&& (r.mask &&& q.mask)) != 0

/-- The row of the opcode map (R38) an instruction belongs to. -/
def Instr.row : Instr → Row
  | .cls => ⟨"CLS", 0x00E0, 0xFFFF⟩
  | .ret => ⟨"RET", 0x00EE, 0xFFFF⟩
  | .jp _ => ⟨"JP", 0x1000, 0xF000⟩
  | .call _ => ⟨"CALL", 0x2000, 0xF000⟩
  | .seImm _ _ => ⟨"SE_IMM", 0x3000, 0xF000⟩
  | .sneImm _ _ => ⟨"SNE_IMM", 0x4000, 0xF000⟩
  | .seReg _ _ => ⟨"SE_REG", 0x5000, 0xF00F⟩
  | .ldImm _ _ => ⟨"LD_IMM", 0x6000, 0xF000⟩
  | .addImm _ _ => ⟨"ADD_IMM", 0x7000, 0xF000⟩
  | .ldReg _ _ => ⟨"LD_REG", 0x8000, 0xF00F⟩
  | .or _ _ => ⟨"OR", 0x8001, 0xF00F⟩
  | .and _ _ => ⟨"AND", 0x8002, 0xF00F⟩
  | .xor _ _ => ⟨"XOR", 0x8003, 0xF00F⟩
  | .addReg _ _ => ⟨"ADD_REG", 0x8004, 0xF00F⟩
  | .sub _ _ => ⟨"SUB", 0x8005, 0xF00F⟩
  | .shr _ _ => ⟨"SHR", 0x8006, 0xF00F⟩
  | .subn _ _ => ⟨"SUBN", 0x8007, 0xF00F⟩
  | .shl _ _ => ⟨"SHL", 0x800E, 0xF00F⟩
  | .sneReg _ _ => ⟨"SNE_REG", 0x9000, 0xF00F⟩
  | .ldI _ => ⟨"LD_I", 0xA000, 0xF000⟩
  | .jpV0 _ => ⟨"JP_V0", 0xB000, 0xF000⟩
  | .rnd _ _ => ⟨"RND", 0xC000, 0xF000⟩
  | .drw _ _ _ => ⟨"DRW", 0xD000, 0xF000⟩
  | .skp _ => ⟨"SKP", 0xE09E, 0xF0FF⟩
  | .sknp _ => ⟨"SKNP", 0xE0A1, 0xF0FF⟩
  | .ldVxDt _ => ⟨"LD_VX_DT", 0xF007, 0xF0FF⟩
  | .ldVxK _ => ⟨"LD_VX_K", 0xF00A, 0xF0FF⟩
  | .ldDtVx _ => ⟨"LD_DT_VX", 0xF015, 0xF0FF⟩
  | .ldStVx _ => ⟨"LD_ST_VX", 0xF018, 0xF0FF⟩
  | .addI _ => ⟨"ADD_I", 0xF01E, 0xF0FF⟩
  | .ldF _ => ⟨"LD_F", 0xF029, 0xF0FF⟩
  | .ldB _ => ⟨"LD_B", 0xF033, 0xF0FF⟩
  | .stRegs _ => ⟨"ST_REGS", 0xF055, 0xF0FF⟩
  | .ldRegs _ => ⟨"LD_REGS", 0xF065, 0xF0FF⟩

/-- The opcode map (R38), one row per instruction; a row does not depend on the operands. -/
def opcodeMap : List Row :=
  [Instr.cls, .ret, .jp 0, .call 0, .seImm 0 0, .sneImm 0 0, .seReg 0 0, .ldImm 0 0, .addImm 0 0,
   .ldReg 0 0, .or 0 0, .and 0 0, .xor 0 0, .addReg 0 0, .sub 0 0, .shr 0 0, .subn 0 0, .shl 0 0,
   .sneReg 0 0, .ldI 0, .jpV0 0, .rnd 0 0, .drw 0 0 0, .skp 0, .sknp 0, .ldVxDt 0, .ldVxK 0,
   .ldDtVx 0, .ldStVx 0, .addI 0, .ldF 0, .ldB 0, .stRegs 0, .ldRegs 0].map Instr.row

/-- The word is one of the 43954 defined words: some row admits it (R36, R39). -/
def definedWord (w : Word) : Bool := opcodeMap.any (·.admits w)

/-- The events the interface gives a meaning to: a ROM of at most 3584 bytes (R26, D21), a key
number of at most 15 (R50, D29). Reset, Cycle and Tick have no operand to check. -/
def Machine.Event.wellFormed : Machine.Event → Bool
  | .reset => true
  | .loadRom bytes => bytes.length ≤ Config.romMax
  | .cycle => true
  | .tick => true
  | .setKey n _ => n ≤ 15

end Sys2Proof
end

