-- ==== Sys2Proof/Machine/Cycle.lean ====
section
/-!
DEFINITION. The five events (00_scope R3): `Cycle` (40_cycle_driver R43 to R47), `Tick` (R48, R49),
`SetKey` (R50), `LoadROM` (20_memory R26), `Reset` (70_reset_and_hazards R106); the launch image
below the program (R107); and the placing of an instruction where the next Cycle fetches.
-/
namespace Sys2Proof.Machine

/-- `Cycle(rand)` (R43): nothing while HALTED (R47); a fetch out of range (R44); an invalid word
(R94); else the instruction. -/
def cycle (s : State) : Host.Outcome State Fault Refusal :=
  match s.status with
  | .halted => .next s
  | .running =>
    match s.fetchWord with
    | .error a => .next (s.raise .fetch 0 a)
    | .ok w =>
      match decode w with
      | .invalid op => .next (s.raise .invalidOpcode op op.toNat)
      | .op i => exec i s

/-- One timer step: down by one, never below 0 (R9, R48). -/
def countDown (b : Byte) : Byte := if b = 0 then 0 else b - 1

/-- The `tone_start` result of a Tick in this state (R48, R49): `ST = 1` before the decrement, and
0 while HALTED (R47). -/
def State.toneStart (s : State) : Bool :=
  match s.status with
  | .halted => false
  | .running => s.st == 1

/-- `Tick` (R48). Its result is kept in `lastTone` (log 4). -/
def State.tick (s : State) : State :=
  match s.status with
  | .halted => { s with lastTone := s.toneStart }
  | .running =>
    { s with dt := countDown s.dt, st := countDown s.st, lastTone := s.toneStart }

/-- `SetKey(n, pressed)` (R50): nothing while HALTED (R47), refused above 15 (log 5). -/
def setKey (n : Nat) (pressed : Bool) (s : State) : Host.Outcome State Fault Refusal :=
  match s.status with
  | .halted => .next s
  | .running =>
    if h : n < 16 then .next { s with keys := s.keys.set n pressed h }
    else .refused (.keyOutOfRange n)

/-- `LoadROM(bytes)` (R26): nothing while HALTED (R47), refused above 3584 bytes (log 5). -/
def loadRom (bytes : List Byte) (s : State) : Host.Outcome State Fault Refusal :=
  match s.status with
  | .halted => .next s
  | .running =>
    if bytes.length ≤ Config.romMax then
      .next { s with mem := s.mem.writeList Config.progBase bytes }
    else .refused (.romTooLong bytes.length)

/-- One event (R3). -/
def handle (e : Event) (s : State) : Host.Outcome State Fault Refusal :=
  match e with
  | .reset => .next s.restart
  | .loadRom bytes => loadRom bytes s
  | .cycle => cycle s
  | .tick => .next s.tick
  | .setKey n pressed => setKey n pressed s

/-- The next event: the first one listed, a Cycle when none is (R51, log 2). -/
def nextEvent (s : State) : Host.Outcome State Fault Refusal :=
  match s.events with
  | [] => cycle s
  | e :: es => handle e { s with events := es }

/-- The launch step of R107 (3): what the host puts below the program, a font for instance, before
the first Cycle (log 12). -/
def placeLow (bytes : List Byte) (s : State) : Host.Outcome State Fault Refusal :=
  if bytes.length ≤ Config.progBase then .next { s with mem := s.mem.writeList 0 bytes }
  else .refused (.lowImageTooLong bytes.length)

/-- The two bytes of `w` stored where the next Cycle fetches, and the machine made to fetch there:
no other event is due, it is running, and a `pc` no word can be stored at is moved to 0x200
(log 11). -/
def State.placeWord (s : State) (w : Word) : State :=
  let at0 : Word := if s.pc.toNat ≤ 0xFFE then s.pc else BitVec.ofNat 16 Config.progBase
  { s with
    pc := at0
    mem := s.mem.writeList at0.toNat [highByte w, lowByte w]
    status := .running
    fault := none
    events := [] }

end Sys2Proof.Machine
end

