-- ==== Sys2Proof/Machine/Step.lean ====
section
/-!
DEFINITION. The step of the machine: the next event (00_scope R3), and the placing of a table word
where the next step fetches.
-/
namespace Sys2Proof.Machine

/-- One step: the next event of the host (`nextEvent`). -/
def step (s : State) : Host.Outcome State Fault Refusal := nextEvent s

/-- `s` with the word whose table bits are `w` stored where `step` fetches its next instruction
(log 11). -/
def State.withFetchWord (s : State) (nbits w : Nat) : State := s.placeWord (tableWord nbits w)

end Sys2Proof.Machine
end

