-- ==== Sys2Proof/Safety.lean ====
section
/-!
DEFINITION. What counts as a safe run (no fault has halted the machine), the invariants of
10_state rule R17, and the lists of the spec the statements are made of: which instruction writes
what (10_state R5 to R12) and which can fault when (60_exceptions R93).
-/
namespace Sys2Proof

/-- The registers an instruction may write: its destination, and `VF` for the six that write it as
a side effect (R5). -/
def Instr.writesReg (i : Instr) (z : Nibble) : Bool :=
  match i with
  | .ldImm x _ | .addImm x _ | .rnd x _ => z == x
  | .ldReg x _ | .or x _ | .and x _ | .xor x _ => z == x
  | .addReg x _ | .sub x _ | .shr x _ | .subn x _ | .shl x _ => z == x || z == 15
  | .drw _ _ _ => z == 15
  | .ldVxDt x | .ldVxK x => z == x
  | .ldRegs x => decide (z.toNat ≤ x.toNat)
  | .cls | .ret | .jp _ | .call _ | .seImm _ _ | .sneImm _ _ | .seReg _ _ | .sneReg _ _
  | .ldI _ | .jpV0 _ | .skp _ | .sknp _ | .ldDtVx _ | .ldStVx _ | .addI _ | .ldF _ | .ldB _
  | .stRegs _ => false

/-- How many bytes from `I` on an instruction stores: `Fx33` three, `Fx55` `x + 1` (R12, R19). -/
def Instr.storedBytes : Instr → Nat
  | .ldB _ => 3
  | .stRegs x => x.toNat + 1
  | .cls | .ret | .jp _ | .call _ | .seImm _ _ | .sneImm _ _ | .seReg _ _ | .sneReg _ _
  | .ldImm _ _ | .addImm _ _ | .ldReg _ _ | .or _ _ | .and _ _ | .xor _ _ | .addReg _ _
  | .sub _ _ | .shr _ _ | .subn _ _ | .shl _ _ | .ldI _ | .jpV0 _ | .rnd _ _ | .drw _ _ _
  | .skp _ | .sknp _ | .ldVxDt _ | .ldVxK _ | .ldDtVx _ | .ldStVx _ | .addI _ | .ldF _
  | .ldRegs _ => 0

end Sys2Proof

namespace Sys2Proof.Machine

/-- The table of R93 for the instructions: the cause, and the condition on the state before the
instruction. -/
def State.faultOf (s : State) (i : Instr) : Option FaultCause :=
  match i with
  | .call _ => if s.sp.val = 16 then some .overflow else none
  | .ret => if s.sp.val = 0 then some .underflow else none
  | .drw _ _ n => if n ≠ 0 ∧ s.i.toNat + n.toNat > 0x1000 then some .dataRead else none
  | .ldRegs x => if s.i.toNat + x.toNat > 0xFFF then some .dataRead else none
  | .ldB _ => if s.i.toNat + 2 > 0xFFF then some .dataWrite else none
  | .stRegs x => if s.i.toNat + x.toNat > 0xFFF then some .dataWrite else none
  | .skp x | .sknp x => if (s.reg x).toNat > 15 then some .key else none
  | .cls | .jp _ | .seImm _ _ | .sneImm _ _ | .seReg _ _ | .sneReg _ _ | .ldImm _ _
  | .addImm _ _ | .ldReg _ _ | .or _ _ | .and _ _ | .xor _ _ | .addReg _ _ | .sub _ _ | .shr _ _
  | .subn _ _ | .shl _ _ | .ldI _ | .jpV0 _ | .rnd _ _ | .ldVxDt _ | .ldVxK _ | .ldDtVx _
  | .ldStVx _ | .addI _ | .ldF _ => none

/-- The state halted with a fault record (R46, R97), every other element as it was. -/
def State.haltedWith (s : State) (kind : FaultKind) (cause : FaultCause) (opcode : Word)
    (info : Nat) : State :=
  { s with
    status := .halted
    fault := some { kind := kind, cause := cause, opcode := opcode, pc := s.pc, info := info } }

/-- The word in memory at `pc`, first byte high (R32). -/
abbrev State.HasWord (s : State) (w : Word) : Prop :=
  s.pc.toNat ≤ 0xFFE ∧ s.mem.read s.pc.toNat ++ s.mem.read (s.pc.toNat + 1) = w

/-- The machine runs and no event is listed, so that the next event is a Cycle (R43, R51, log 2). -/
abbrev State.CycleDue (s : State) : Prop := s.status = .running ∧ s.events = []

/-- A set bit of the sprite `Dxyn` draws in `s` lands on the cell `d`, each coordinate wrapped
(R78, R79, R81). -/
def State.SpriteCovers (s : State) (x y n : Nibble) (d : Fin 2048) : Prop :=
  ∃ r c : Nat, r < n.toNat ∧ c < 8 ∧ (s.mem.read (s.i.toNat + r)).getLsbD (7 - c) = true ∧
    d.val = ((s.reg y).toNat + r) % 32 * 64 + ((s.reg x).toNat + c) % 64

/-- `k` Ticks (R48), one after the other. -/
def State.ticks (s : State) : Nat → State
  | 0 => s
  | k + 1 => (s.ticks k).tick

/-- The machine has not faulted (R13). -/
abbrev State.Safe (s : State) : Prop := s.status = .running

/-- R13, R17 (e): `STATUS = HALTED` if and only if `FAULT != none`. -/
abbrev State.FaultMatchesStatus (s : State) : Prop := s.status = .halted ↔ s.fault.isSome

/-- R46, R97: the record's `pc` is the address the `pc` register keeps, and its kind is the kind of
its cause (R93). -/
abbrev State.FaultRecordSound (s : State) : Prop :=
  s.fault.all (fun r => r.pc == s.pc && r.kind == r.cause.kind) = true

/-- R17 (f): every stack entry in use is in 0x0002..0x1000. -/
abbrev State.StackInRange (s : State) : Prop :=
  ∀ k : Fin 16, k.val < s.sp.val → 0x0002 ≤ s.stack[k].toNat ∧ s.stack[k].toNat ≤ 0x1000

/-- R7: the highest value `pc` can hold is 0x10FE. -/
abbrev State.PcInRange (s : State) : Prop := s.pc.toNat ≤ 0x10FE

/-- R12, R17 (g): the memory list is canonical; it lists no address outside 0..0xFFF. -/
abbrev State.MemoryCanonical (s : State) : Prop := s.mem.wf = true

/-- The invariants together. R17 (a), (b), (c), (d) hold by the types of the fields. -/
abbrev State.Inv (s : State) : Prop :=
  s.MemoryCanonical ∧ s.FaultMatchesStatus ∧ s.FaultRecordSound ∧ s.StackInRange ∧ s.PcInRange

end Sys2Proof.Machine
end

