-- ==== Sys2Proof/Certificates/Slice0/Obligations.lean ====
section
/-!
DEFINITION. The statements for the provers. Each docstring names the rule of spec/ it formalises;
where a clause rests on a decision of the spec (D<n> of 92_eei_decisions.md) or on a choice of the
model (log <n>), it says so.
-/
open Sys2Proof Sys2Proof.Machine

/-! ## Encoding (30_encoding) -/

/-- R36, R38: decoding the word of an instruction gives the instruction, at every operand. -/
def Obligations.DecodeOfEncode : Prop := ∀ i : Instr, decode (encode i) = .op i

/-- R36, R38: a word that decodes to an instruction is that instruction's word, so no bit of a
defined word is dropped. -/
def Obligations.EncodeOfDecode : Prop :=
  ∀ (w : Word) (i : Instr), decode w = .op i → encode i = w

/-- R36 (with D3): a word decodes to an instruction of a row iff `(op AND mask) = match`, and to
INVALID iff it matches no row. -/
def Obligations.DecodeMatchesOpcodeMap : Prop :=
  ∀ w : Word,
    (∀ r ∈ opcodeMap, r.admits w = true ↔ ∃ i, decode w = .op i ∧ i.row = r) ∧
    (decode w = .invalid w ↔ ∀ r ∈ opcodeMap, r.admits w = false)

/-- R39 (with D2, D3): the invalid words are exactly the six groups of its table. -/
def Obligations.InvalidWordsAreListed : Prop :=
  ∀ w : Word, decode w = .invalid w ↔
    (w.toNat / 0x1000 = 0x0 ∧ w.toNat ≠ 0x00E0 ∧ w.toNat ≠ 0x00EE) ∨
    (w.toNat / 0x1000 = 0x5 ∧ w.toNat % 0x10 ≠ 0) ∨
    (w.toNat / 0x1000 = 0x8 ∧ w.toNat % 0x10 ∈ [0x8, 0x9, 0xA, 0xB, 0xC, 0xD, 0xF]) ∨
    (w.toNat / 0x1000 = 0x9 ∧ w.toNat % 0x10 ≠ 0) ∨
    (w.toNat / 0x1000 = 0xE ∧ w.toNat % 0x100 ∉ [0x9E, 0xA1]) ∨
    (w.toNat / 0x1000 = 0xF ∧
      w.toNat % 0x100 ∉ [0x07, 0x0A, 0x15, 0x18, 0x1E, 0x29, 0x33, 0x55, 0x65])

/-- R36, R38: one word of each family decodes to its instruction, and four words of 95_test_vectors
section 2.1 to INVALID. -/
def Obligations.SampleWordsDecode : Prop :=
  decode 0x332A = .op (.seImm 3 0x2A) ∧ decode 0xE49E = .op (.skp 4) ∧
  decode 0x8AB6 = .op (.shr 10 11) ∧ decode 0x2ABC = .op (.call 0xABC) ∧
  decode 0x00EE = .op .ret ∧ decode 0xD7A5 = .op (.drw 7 10 5) ∧
  decode 0xC30F = .op (.rnd 3 0x0F) ∧ decode 0xF20A = .op (.ldVxK 2) ∧
  decode 0xFF65 = .op (.ldRegs 15) ∧ decode 0x0000 = .invalid 0x0000 ∧
  decode 0x01E0 = .invalid 0x01E0 ∧ decode 0x5011 = .invalid 0x5011 ∧
  decode 0xF01F = .invalid 0xF01F

/-! ## The cycle driver and the events (40_cycle_driver, 20_memory, 70_reset_and_hazards) -/

/-- R43: on a running machine whose word at `pc` decodes to `i`, a Cycle is the execution of `i`;
the default advance of R45 is part of `exec`. The Cycle is the next event when none is listed, or
when one is listed first, and is then taken off the list (R51, log 2). -/
def Obligations.StepRunsDecodedInstruction : Prop :=
  ∀ (s : State) (w : Word) (i : Instr), s.status = .running → s.HasWord w → decode w = .op i →
    (s.events = [] → step s = exec i s) ∧
    ∀ es, s.events = .cycle :: es → step s = exec i { s with events := es }

/-- R94, R39: a Cycle that fetches an invalid word halts with `InvalidOpcode`, its word, its
address, and `info` the word; nothing else changes (R46, D6). A listed Cycle is taken off the list
(log 2). -/
def Obligations.InvalidWordHalts : Prop :=
  ∀ (s : State) (w : Word), s.status = .running → s.HasWord w → (∀ i, decode w ≠ .op i) →
    (s.events = [] →
      step s = .next (s.haltedWith .invalidOpcode .invalidOpcode w w.toNat)) ∧
    ∀ es, s.events = .cycle :: es →
      step s = .next (State.haltedWith { s with events := es }
        .invalidOpcode .invalidOpcode w w.toNat)

/-- R44 (D4): a fetch with `pc0 > 0xFFE` halts with `OutOfRange` FETCH, opcode 0, and `info` the
lowest address of the two above 0xFFF; nothing else changes (D6). A listed Cycle is taken off the
list (log 2). -/
def Obligations.FetchOutOfRangeHalts : Prop :=
  ∀ s : State, s.status = .running → s.pc.toNat > 0xFFE →
    (s.events = [] →
      step s = .next (s.haltedWith .outOfRange .fetch 0
        (if s.pc.toNat > 0xFFF then s.pc.toNat else 0x1000))) ∧
    ∀ es, s.events = .cycle :: es →
      step s = .next (State.haltedWith { s with events := es } .outOfRange .fetch 0
        (if s.pc.toNat > 0xFFF then s.pc.toNat else 0x1000))

/-- R47 (D19): while HALTED every event but Reset changes nothing, and a Tick's result (kept in
`lastTone`, log 4) is 0. Events outside the interface are covered by the same sentence (log 5). -/
def Obligations.HaltedIsAbsorbing : Prop :=
  ∀ s : State, s.status = .halted →
    (s.events = [] → step s = .next s) ∧
    ∀ e es, s.events = e :: es → e ≠ .reset →
      step s = .next { s with
        events := es
        lastTone := if e = .tick then false else s.lastTone }

/-- R47, R101 (D19): however many Cycles follow, a halted machine stays as it is. -/
def Obligations.HaltedStaysForAnyNumberOfCycles : Prop :=
  ∀ (k : Nat) (s : State), s.status = .halted → s.events = [] → Sys2Proof.core.run k s = .next s

/-- R106 (D27): Reset, in any state, leaves every element of CORE at its reset value; the model's
coming events and random bytes go on (logs 2, 3). -/
def Obligations.ResetFromAnyState : Prop :=
  ∀ (s : State) (es : List Event), s.events = .reset :: es →
    step s = .next { State.reset with events := es, draws := s.draws }

/-- R16 (D6 for STATUS and FAULT): the reset values. -/
def Obligations.ResetValues : Prop :=
  (∀ x, State.reset.reg x = 0x00) ∧ State.reset.i = 0x0000 ∧ State.reset.pc = 0x0200 ∧
  State.reset.sp.val = 0 ∧ (∀ k : Fin 16, State.reset.stack[k] = 0x0000) ∧
  State.reset.dt = 0x00 ∧ State.reset.st = 0x00 ∧ (∀ c, State.reset.fb.cell c = false) ∧
  (∀ k : Fin 16, State.reset.keys[k] = false) ∧ (∀ a, State.reset.mem.read a = 0x00) ∧
  State.reset.status = .running ∧ State.reset.fault = none

/-- R48: a Tick steps both timers down by one unless they are 0 and answers whether `ST` was 1
before; it changes nothing else. Halted, it answers 0 and changes nothing. -/
def Obligations.TickStepsBothTimers : Prop :=
  ∀ (s : State) (es : List Event), s.events = .tick :: es →
    (s.status = .running → step s = .next { s with
      events := es
      dt := if s.dt.toNat > 0 then s.dt - 1 else s.dt
      st := if s.st.toNat > 0 then s.st - 1 else s.st
      lastTone := decide (s.st.toNat = 1) }) ∧
    (s.status = .halted → step s = .next { s with events := es, lastTone := false })

/-- R49 (D18): of the Ticks that follow, exactly the `ST`-th one signals. -/
def Obligations.ToneOnTheLastTick : Prop :=
  ∀ (s : State) (k : Nat), s.status = .running →
    (s.ticks (k + 1)).lastTone = decide (s.st.toNat = k + 1)

/-- R48, R9, R17 (d): after `k` Ticks each timer is down by `k`, never below 0. -/
def Obligations.TimersStopAtZero : Prop :=
  ∀ (s : State) (k : Nat), s.status = .running →
    (s.ticks k).dt.toNat = s.dt.toNat - k ∧ (s.ticks k).st.toNat = s.st.toNat - k

/-- R50: SetKey writes its one key and nothing else; above 15 it is refused (D29, log 5). -/
def Obligations.SetKeyWritesOneKey : Prop :=
  ∀ (s : State) (es : List Event) (n : Nat) (p : Bool), s.events = .setKey n p :: es →
    s.status = .running →
    ((h : n < 16) → step s = .next { s with events := es, keys := s.keys.set n p h }) ∧
    (n > 15 → step s = .refused (.keyOutOfRange n))

/-- R26: LoadROM copies the bytes from 0x200 on and changes nothing else; above 3584 bytes it is
refused (D21, log 5). -/
def Obligations.LoadRomCopiesBytes : Prop :=
  ∀ (s : State) (es : List Event) (bytes : List Byte), s.events = .loadRom bytes :: es →
    s.status = .running →
    (bytes.length ≤ 3584 → ∃ t, step s = .next t ∧
      (∀ k (h : k < bytes.length), t.mem.read (0x200 + k) = bytes[k]) ∧
      (∀ a, a < 0x200 ∨ 0x200 + bytes.length ≤ a → t.mem.read a = s.mem.read a) ∧
      t = { s with events := es, mem := t.mem }) ∧
    (bytes.length > 3584 → step s = .refused (.romTooLong bytes.length))

/-! ## Skips (41_skips) -/

/-- R54, R55: the two compares with an immediate: word, effect, and nothing but `pc` changes. -/
def Obligations.SkipOnImmediate : Prop :=
  ∀ (x : Nibble) (kk : Byte),
    decode (0x3#4 ++ x ++ kk) = .op (.seImm x kk) ∧
    decode (0x4#4 ++ x ++ kk) = .op (.sneImm x kk) ∧
    ∀ s : State,
      exec (.seImm x kk) s
        = .next { s with pc := if (s.reg x).toNat = kk.toNat then s.pc + 4 else s.pc + 2 } ∧
      exec (.sneImm x kk) s
        = .next { s with pc := if (s.reg x).toNat = kk.toNat then s.pc + 2 else s.pc + 4 }

/-- R56, R57: the two compares of registers; a word whose last digit is not 0 is INVALID, which is
the spec's decision D3 (R36, log 13). -/
def Obligations.SkipOnRegister : Prop :=
  ∀ x y : Nibble,
    decode (0x5#4 ++ x ++ y ++ 0#4) = .op (.seReg x y) ∧
    decode (0x9#4 ++ x ++ y ++ 0#4) = .op (.sneReg x y) ∧
    (∀ n : Nibble, n ≠ 0 →
      decode (0x5#4 ++ x ++ y ++ n) = .invalid (0x5#4 ++ x ++ y ++ n) ∧
      decode (0x9#4 ++ x ++ y ++ n) = .invalid (0x9#4 ++ x ++ y ++ n)) ∧
    ∀ s : State,
      exec (.seReg x y) s
        = .next { s with pc := if (s.reg x).toNat = (s.reg y).toNat then s.pc + 4 else s.pc + 2 } ∧
      exec (.sneReg x y) s
        = .next { s with pc := if (s.reg x).toNat = (s.reg y).toNat then s.pc + 2 else s.pc + 4 }

/-- R58, R59 (D15): the key tested is the one numbered by the value of `V[x]`; above 15 the
instruction halts with `OutOfRange` KEY and nothing else changes. -/
def Obligations.SkipOnKey : Prop :=
  ∀ (x : Nibble) (s : State),
    ((h : (s.reg x).toNat < 16) →
      exec (.skp x) s
        = .next { s with pc := if s.keys[(s.reg x).toNat] = true then s.pc + 4 else s.pc + 2 } ∧
      exec (.sknp x) s
        = .next { s with pc := if s.keys[(s.reg x).toNat] = true then s.pc + 2 else s.pc + 4 }) ∧
    ((s.reg x).toNat > 15 →
      exec (.skp x) s
        = .next (s.haltedWith .outOfRange .key (0xE#4 ++ x ++ 0x9E#8) (s.reg x).toNat) ∧
      exec (.sknp x) s
        = .next (s.haltedWith .outOfRange .key (0xE#4 ++ x ++ 0xA1#8) (s.reg x).toNat))

/-! ## Register load and ALU (42_alu) -/

/-- R62, R64: load immediate and copy: `V[x]` and `pc` change, nothing else does. -/
def Obligations.LoadImmediateAndCopy : Prop :=
  (∀ (x : Nibble) (kk : Byte), decode (0x6#4 ++ x ++ kk) = .op (.ldImm x kk) ∧
    ∀ s : State, ∃ t, exec (.ldImm x kk) s = .next t ∧ t.reg x = kk ∧
      (∀ z, z ≠ x → t.reg z = s.reg z) ∧ t = { s with pc := s.pc + 2, v := t.v }) ∧
  (∀ x y : Nibble, decode (0x8#4 ++ x ++ y ++ 0x0#4) = .op (.ldReg x y) ∧
    ∀ s : State, ∃ t, exec (.ldReg x y) s = .next t ∧ t.reg x = s.reg y ∧
      (∀ z, z ≠ x → t.reg z = s.reg z) ∧ t = { s with pc := s.pc + 2, v := t.v })

/-- R63 (D9, D10): add immediate wraps modulo 256 and writes no flag. -/
def Obligations.AddImmediateWraps : Prop :=
  ∀ (x : Nibble) (kk : Byte) (s : State), ∃ t, exec (.addImm x kk) s = .next t ∧
    (t.reg x).toNat = ((s.reg x).toNat + kk.toNat) % 256 ∧
    (∀ z, z ≠ x → t.reg z = s.reg z) ∧ t = { s with pc := s.pc + 2, v := t.v }

/-- R65, R66, R67 (D9): the three logical operations, bit by bit; no flag is written. -/
def Obligations.LogicalOperationsBitwise : Prop :=
  ∀ (x y : Nibble) (s : State),
    (∃ t, exec (.or x y) s = .next t ∧
      (∀ k < 8, (t.reg x).getLsbD k = ((s.reg x).getLsbD k || (s.reg y).getLsbD k)) ∧
      (∀ z, z ≠ x → t.reg z = s.reg z) ∧ t = { s with pc := s.pc + 2, v := t.v }) ∧
    (∃ t, exec (.and x y) s = .next t ∧
      (∀ k < 8, (t.reg x).getLsbD k = ((s.reg x).getLsbD k && (s.reg y).getLsbD k)) ∧
      (∀ z, z ≠ x → t.reg z = s.reg z) ∧ t = { s with pc := s.pc + 2, v := t.v }) ∧
    (∃ t, exec (.xor x y) s = .next t ∧
      (∀ k < 8, (t.reg x).getLsbD k = ((s.reg x).getLsbD k ^^ (s.reg y).getLsbD k)) ∧
      (∀ z, z ≠ x → t.reg z = s.reg z) ∧ t = { s with pc := s.pc + 2, v := t.v })

/-- R68: add: result modulo 256 to `V[x]`, then the carry to `VF`, which it keeps when `x = 15`:
that the flag is written last is the spec's decision D8 (R60, 90_conflicts C3, log 13). -/
def Obligations.AddSetsCarry : Prop :=
  ∀ x y : Nibble, decode (0x8#4 ++ x ++ y ++ 0x4#4) = .op (.addReg x y) ∧
    ∀ s : State, ∃ t, exec (.addReg x y) s = .next t ∧
      (x ≠ 15 → (t.reg x).toNat = ((s.reg x).toNat + (s.reg y).toNat) % 256) ∧
      (t.reg 15).toNat = (if (s.reg x).toNat + (s.reg y).toNat > 255 then 1 else 0) ∧
      (∀ z, z ≠ x → z ≠ 15 → t.reg z = s.reg z) ∧ t = { s with pc := s.pc + 2, v := t.v }

/-- R69, R71: subtract and reverse subtract: the difference modulo 256 to `V[x]`, then NOT borrow to
`VF`, which it keeps when `x = 15`: that the flag is written last is the spec's decision D8
(R60, 90_conflicts C3, log 13). -/
def Obligations.SubtractSetsNotBorrow : Prop :=
  ∀ x y : Nibble,
    decode (0x8#4 ++ x ++ y ++ 0x5#4) = .op (.sub x y) ∧
    decode (0x8#4 ++ x ++ y ++ 0x7#4) = .op (.subn x y) ∧
    ∀ s : State,
      (∃ t, exec (.sub x y) s = .next t ∧
        (x ≠ 15 → (t.reg x).toNat = ((s.reg x).toNat + 256 - (s.reg y).toNat) % 256) ∧
        (t.reg 15).toNat = (if (s.reg x).toNat ≥ (s.reg y).toNat then 1 else 0) ∧
        (∀ z, z ≠ x → z ≠ 15 → t.reg z = s.reg z) ∧ t = { s with pc := s.pc + 2, v := t.v }) ∧
      (∃ t, exec (.subn x y) s = .next t ∧
        (x ≠ 15 → (t.reg x).toNat = ((s.reg y).toNat + 256 - (s.reg x).toNat) % 256) ∧
        (t.reg 15).toNat = (if (s.reg y).toNat ≥ (s.reg x).toNat then 1 else 0) ∧
        (∀ z, z ≠ x → z ≠ 15 → t.reg z = s.reg z) ∧ t = { s with pc := s.pc + 2, v := t.v })

/-- R70, R72: the two shifts by one, whatever `y` is: result to `V[x]`, then the bit shifted out to
`VF`, which it keeps when `x = 15`: that the flag is written last is the spec's decision D8
(R60, 90_conflicts C3, log 13). -/
def Obligations.ShiftsSetBitShiftedOut : Prop :=
  ∀ x y : Nibble,
    decode (0x8#4 ++ x ++ y ++ 0x6#4) = .op (.shr x y) ∧
    decode (0x8#4 ++ x ++ y ++ 0xE#4) = .op (.shl x y) ∧
    ∀ s : State,
      (∃ t, exec (.shr x y) s = .next t ∧
        (x ≠ 15 → (t.reg x).toNat = (s.reg x).toNat / 2) ∧
        (t.reg 15).toNat = (s.reg x).toNat % 2 ∧
        (∀ z, z ≠ x → z ≠ 15 → t.reg z = s.reg z) ∧ t = { s with pc := s.pc + 2, v := t.v }) ∧
      (∃ t, exec (.shl x y) s = .next t ∧
        (x ≠ 15 → (t.reg x).toNat = (s.reg x).toNat * 2 % 256) ∧
        (t.reg 15).toNat = (s.reg x).toNat / 128 ∧
        (∀ z, z ≠ x → z ≠ 15 → t.reg z = s.reg z) ∧ t = { s with pc := s.pc + 2, v := t.v })

/-! ## Control flow (43_control_flow) -/

/-- R73: jump sets `pc` to the literal address, of any parity, and changes nothing else. -/
def Obligations.JumpIsLiteral : Prop :=
  ∀ nnn : Addr12, decode (0x1#4 ++ nnn) = .op (.jp nnn) ∧
    ∀ s : State, ∃ t, exec (.jp nnn) s = .next t ∧ t.pc.toNat = nnn.toNat ∧
      t = { s with pc := t.pc }

/-- R73, the source's scenario: a jump to its own address is a loop without any change of state. -/
def Obligations.JumpToSelfChangesNothing : Prop :=
  ∀ (nnn : Addr12) (s : State), s.CycleDue → s.HasWord (0x1#4 ++ nnn) →
    s.pc.toNat = nnn.toNat → step s = .next s

/-- R74: call pushes the address of the next instruction and jumps; with 16 addresses on the stack
it halts with OVERFLOW, `info` 16, and nothing else changes (D6). -/
def Obligations.CallPushesReturnAddress : Prop :=
  ∀ nnn : Addr12, decode (0x2#4 ++ nnn) = .op (.call nnn) ∧
    ∀ s : State,
      ((h : s.sp.val < 16) → ∃ t, exec (.call nnn) s = .next t ∧
        t.stack[s.sp.val] = s.pc + 2 ∧
        (∀ k (hk : k < 16), k ≠ s.sp.val → t.stack[k] = s.stack[k]) ∧
        t.sp.val = s.sp.val + 1 ∧ t.pc.toNat = nnn.toNat ∧
        t = { s with pc := t.pc, stack := t.stack, sp := t.sp }) ∧
      (s.sp.val = 16 →
        exec (.call nnn) s
          = .next (s.haltedWith .stackViolation .overflow (0x2#4 ++ nnn) 16))

/-- R75: return pops the stack into `pc` as it stands; on an empty stack it halts with UNDERFLOW,
`info` 0, and nothing else changes (D6). The popped slot keeps its value (R8, D24, log 8). -/
def Obligations.ReturnPopsStack : Prop :=
  decode 0x00EE = .op .ret ∧
  ∀ s : State,
    ((h : 0 < s.sp.val) → ∃ t, exec .ret s = .next t ∧
      t.pc = s.stack[s.sp.val - 1] ∧ t.sp.val = s.sp.val - 1 ∧
      t = { s with pc := t.pc, sp := t.sp }) ∧
    (s.sp.val = 0 →
      exec .ret s = .next (s.haltedWith .stackViolation .underflow 0x00EE 0))

/-- R74, R75, the source's property: call followed immediately by return goes on after the call
with the stack pointer as it was; the popped slot keeps the address that was pushed (R8, D24,
log 8), and nothing else differs from before the call. -/
def Obligations.CallThenReturnComesBack : Prop :=
  ∀ (nnn : Addr12) (s : State) (_ : s.sp.val < 16),
    ∃ t u, exec (.call nnn) s = .next t ∧ exec .ret t = .next u ∧
      u.pc = s.pc + 2 ∧ u.sp = s.sp ∧ u.stack[s.sp.val] = s.pc + 2 ∧
      (∀ k (hk : k < 16), k ≠ s.sp.val → u.stack[k] = s.stack[k]) ∧
      u = { s with pc := u.pc, stack := u.stack }

/-- R76 (D28): jump with offset always adds `V[0]`, without masking. -/
def Obligations.JumpWithOffset : Prop :=
  ∀ (nnn : Addr12) (s : State), ∃ t, exec (.jpV0 nnn) s = .next t ∧
    t.pc.toNat = nnn.toNat + (s.reg 0).toNat ∧ t = { s with pc := t.pc }

/-! ## Framebuffer (44_graphics) -/

/-- R80: clear-screen turns every cell off; `VF` and all else stay. -/
def Obligations.ClearScreen : Prop :=
  decode 0x00E0 = .op .cls ∧
  ∀ s : State, ∃ t, exec .cls s = .next t ∧ (∀ c, t.fb.cell c = false) ∧
    t = { s with pc := s.pc + 2, fb := t.fb }

/-- R78, R79, R81 (D13, D14, D26; log 7): a draw whose bytes are all in memory flips exactly the
cells its set bits cover, with wrapped coordinates, and leaves in `VF` whether one of them was lit;
the coordinates are those before `VF` is written; nothing else changes. With `n = 0` no address
matters. -/
def Obligations.DrawFlipsCoveredCells : Prop :=
  ∀ (x y n : Nibble) (s : State), n = 0 ∨ s.i.toNat + n.toNat ≤ 0x1000 →
    ∃ t, exec (.drw x y n) s = .next t ∧
      (∀ d, t.fb.cell d ≠ s.fb.cell d ↔ s.SpriteCovers x y n d) ∧
      ((t.reg 15 = 1 ∧ ∃ d, s.SpriteCovers x y n d ∧ s.fb.cell d = true) ∨
       (t.reg 15 = 0 ∧ ∀ d, s.SpriteCovers x y n d → s.fb.cell d = false)) ∧
      (∀ z, z ≠ 15 → t.reg z = s.reg z) ∧
      t = { s with pc := s.pc + 2, v := t.v, fb := t.fb }

/-- R81 (d), the source's XOR property (D13, log 7): drawing the same sprite twice at the same place
gives back every cell; over a clear region, a sprite with a set bit collides on the second draw
only. -/
def Obligations.DrawTwiceRestores : Prop :=
  ∀ (x y n : Nibble) (s : State), x ≠ 15 → y ≠ 15 → n = 0 ∨ s.i.toNat + n.toNat ≤ 0x1000 →
    ∃ t u, exec (.drw x y n) s = .next t ∧ exec (.drw x y n) { t with pc := s.pc } = .next u ∧
      (∀ d, u.fb.cell d = s.fb.cell d) ∧
      ((∀ d, s.SpriteCovers x y n d → s.fb.cell d = false) → (∃ d, s.SpriteCovers x y n d) →
        t.reg 15 = 0 ∧ u.reg 15 = 1)

/-- R81, R96 (D6, D12): a draw that reads an address above 0xFFF halts with DATA_READ and the lowest
such address; nothing is drawn and `VF` is not cleared. -/
def Obligations.DrawOutOfRangeHalts : Prop :=
  ∀ (x y n : Nibble) (s : State), n ≠ 0 → s.i.toNat + n.toNat - 1 > 0xFFF →
    exec (.drw x y n) s
      = .next (s.haltedWith .outOfRange .dataRead (0xD#4 ++ x ++ y ++ n) (max s.i.toNat 0x1000))

/-! ## Random, key wait, timers (45_random_keypad_timers) -/

/-- R82 (D17, log 3): `V[x]` gets the free byte of this draw masked with `kk`; the next draw has a
byte of its own; nothing else changes. It holds for every sequence of random bytes. -/
def Obligations.RandomIsMasked : Prop :=
  ∀ (x : Nibble) (kk : Byte) (s : State), ∃ t, exec (.rnd x kk) s = .next t ∧
    t.reg x = Config.rand s.draws &&& kk ∧
    (∀ k < 8, kk.getLsbD k = false → (t.reg x).getLsbD k = false) ∧
    (∀ z, z ≠ x → t.reg z = s.reg z) ∧
    t = { s with pc := s.pc + 2, v := t.v, draws := s.draws + 1 }

/-- R83, R85, and of R86 the decoding and the write: the delay timer is read and written,
the sound timer written, each at 8 bits; the write of `ST` signals nothing by itself. -/
def Obligations.TimerAccess : Prop :=
  ∀ x : Nibble,
    decode (0xF#4 ++ x ++ 0x07#8) = .op (.ldVxDt x) ∧
    decode (0xF#4 ++ x ++ 0x15#8) = .op (.ldDtVx x) ∧
    decode (0xF#4 ++ x ++ 0x18#8) = .op (.ldStVx x) ∧
    ∀ s : State,
      (∃ t, exec (.ldVxDt x) s = .next t ∧ t.reg x = s.dt ∧ (∀ z, z ≠ x → t.reg z = s.reg z) ∧
        t = { s with pc := s.pc + 2, v := t.v }) ∧
      exec (.ldDtVx x) s = .next { s with pc := s.pc + 2, dt := s.reg x } ∧
      exec (.ldStVx x) s = .next { s with pc := s.pc + 2, st := s.reg x }

/-- R84 (D16): with no key pressed `Fx0A` changes nothing at all; else it stores the lowest pressed
key, key 0 as well as any other, and goes on. The keypad is not written. -/
def Obligations.KeyWait : Prop :=
  ∀ (x : Nibble) (s : State),
    ((∀ k (hk : k < 16), s.keys[k] = false) → exec (.ldVxK x) s = .next s) ∧
    ∀ k (hk : k < 16), s.keys[k] = true → (∀ j (hj : j < k), s.keys[j] = false) →
      ∃ t, exec (.ldVxK x) s = .next t ∧ (t.reg x).toNat = k ∧
        (∀ z, z ≠ x → t.reg z = s.reg z) ∧ t = { s with pc := s.pc + 2, v := t.v }

/-! ## Index register and memory (46_index_memory) -/

/-- R87: load index. -/
def Obligations.LoadIndex : Prop :=
  ∀ nnn : Addr12, decode (0xA#4 ++ nnn) = .op (.ldI nnn) ∧
    ∀ s : State, ∃ t, exec (.ldI nnn) s = .next t ∧ t.i.toNat = nnn.toNat ∧
      t = { s with pc := s.pc + 2, i := t.i }

/-- R88 (D9, D11), R89 (D25): add to index wraps at 16 bits and writes no flag; the font address is
five times the whole byte. -/
def Obligations.IndexArithmetic : Prop :=
  ∀ (x : Nibble) (s : State),
    (∃ t, exec (.addI x) s = .next t ∧ t.i.toNat = (s.i.toNat + (s.reg x).toNat) % 65536 ∧
      t = { s with pc := s.pc + 2, i := t.i }) ∧
    (∃ t, exec (.ldF x) s = .next t ∧ t.i.toNat = (s.reg x).toNat * 5 ∧
      t = { s with pc := s.pc + 2, i := t.i })

/-- R90: store BCD: the three digits at `I`, `I+1`, `I+2`, no other byte; if one of the three is
above 0xFFF it halts with DATA_WRITE, the lowest such address, and no byte is written (D6). -/
def Obligations.StoreBcdDigits : Prop :=
  ∀ x : Nibble, decode (0xF#4 ++ x ++ 0x33#8) = .op (.ldB x) ∧
    ∀ s : State,
      (s.i.toNat + 2 ≤ 0xFFF → ∃ t, exec (.ldB x) s = .next t ∧
        (t.mem.read s.i.toNat).toNat = (s.reg x).toNat / 100 ∧
        (t.mem.read (s.i.toNat + 1)).toNat = (s.reg x).toNat / 10 % 10 ∧
        (t.mem.read (s.i.toNat + 2)).toNat = (s.reg x).toNat % 10 ∧
        (∀ a, a < s.i.toNat ∨ s.i.toNat + 2 < a → t.mem.read a = s.mem.read a) ∧
        t = { s with pc := s.pc + 2, mem := t.mem }) ∧
      (s.i.toNat + 2 > 0xFFF →
        exec (.ldB x) s
          = .next (s.haltedWith .outOfRange .dataWrite (0xF#4 ++ x ++ 0x33#8)
              (max s.i.toNat 0x1000)))

/-- R91: store registers: `V[k]` at `I + k` for `k = 0..x`, no other byte; if one of them is above
0xFFF it halts with DATA_WRITE, the lowest such address, and no byte is written (D6). -/
def Obligations.StoreRegisters : Prop :=
  ∀ x : Nibble, decode (0xF#4 ++ x ++ 0x55#8) = .op (.stRegs x) ∧
    ∀ s : State,
      (s.i.toNat + x.toNat ≤ 0xFFF → ∃ t, exec (.stRegs x) s = .next t ∧
        (∀ k : Nibble, k.toNat ≤ x.toNat → t.mem.read (s.i.toNat + k.toNat) = s.reg k) ∧
        (∀ a, a < s.i.toNat ∨ s.i.toNat + x.toNat < a → t.mem.read a = s.mem.read a) ∧
        t = { s with pc := s.pc + 2, mem := t.mem }) ∧
      (s.i.toNat + x.toNat > 0xFFF →
        exec (.stRegs x) s
          = .next (s.haltedWith .outOfRange .dataWrite (0xF#4 ++ x ++ 0x55#8)
              (max s.i.toNat 0x1000)))

/-- R92: load registers: `V[k]` from `I + k` for `k = 0..x`, registers above `x` unchanged; if one
address is above 0xFFF it halts with DATA_READ, the lowest such address, and no register is
written (D6). -/
def Obligations.LoadRegisters : Prop :=
  ∀ x : Nibble, decode (0xF#4 ++ x ++ 0x65#8) = .op (.ldRegs x) ∧
    ∀ s : State,
      (s.i.toNat + x.toNat ≤ 0xFFF → ∃ t, exec (.ldRegs x) s = .next t ∧
        (∀ k : Nibble, k.toNat ≤ x.toNat → t.reg k = s.mem.read (s.i.toNat + k.toNat)) ∧
        (∀ k : Nibble, x.toNat < k.toNat → t.reg k = s.reg k) ∧
        t = { s with pc := s.pc + 2, v := t.v }) ∧
      (s.i.toNat + x.toNat > 0xFFF →
        exec (.ldRegs x) s
          = .next (s.haltedWith .outOfRange .dataRead (0xF#4 ++ x ++ 0x65#8)
              (max s.i.toNat 0x1000)))

/-- R30 (D22): registers stored over program text are what the next Cycle executes when `pc` comes
there. -/
def Obligations.StoredWordIsExecutedNext : Prop :=
  ∀ (x k : Nibble) (s : State) (i : Instr), s.CycleDue → k.toNat < x.toNat →
    s.i.toNat + x.toNat ≤ 0xFFF → s.pc.toNat + 2 = s.i.toNat + k.toNat →
    s.HasWord (0xF#4 ++ x ++ 0x55#8) → decode (s.reg k ++ s.reg (k + 1)) = .op i →
    ∃ t, step s = .next t ∧ step t = exec i t

/-! ## Whole-machine rules -/

/-- R5, R4: a register changes only under an instruction that names it as its destination, or `VF`
under the six instructions that write it as a side effect. -/
def Obligations.OnlyListedInstructionsWriteRegisters : Prop :=
  ∀ (i : Instr) (s t : State) (z : Nibble), exec i s = .next t → i.writesReg z = false →
    t.reg z = s.reg z

/-- R6, R8, R9, R10, R11: only `Annn`, `Fx1E`, `Fx29` write `I`; only call and return `SP`; only call
the stack; only `Fx15` writes `DT`, only `Fx18` `ST`; only `00E0` and `Dxyn` the framebuffer; no
instruction the keypad. -/
def Obligations.OnlyListedInstructionsWriteSpecialState : Prop :=
  ∀ (i : Instr) (s t : State), exec i s = .next t →
    (t.i ≠ s.i → (∃ n, i = .ldI n) ∨ (∃ x, i = .addI x) ∨ ∃ x, i = .ldF x) ∧
    (t.stack ≠ s.stack → ∃ n, i = .call n) ∧
    (t.sp ≠ s.sp → (∃ n, i = .call n) ∨ i = .ret) ∧
    (t.dt ≠ s.dt → ∃ x, i = .ldDtVx x) ∧
    (t.st ≠ s.st → ∃ x, i = .ldStVx x) ∧
    (t.fb ≠ s.fb → i = .cls ∨ ∃ x y n, i = .drw x y n) ∧
    t.keys = s.keys ∧ t.events = s.events ∧ t.lastTone = s.lastTone

/-- R12, R19: memory changes only in the bytes `Fx33` and `Fx55` store from `I` on; for every other
instruction every byte reads as before. -/
def Obligations.OnlyStoredBytesChange : Prop :=
  ∀ (i : Instr) (s t : State) (a : Nat), exec i s = .next t →
    a < s.i.toNat ∨ s.i.toNat + i.storedBytes ≤ a → t.mem.read a = s.mem.read a

/-- R46, R97 (D6): an instruction that halts the machine has changed nothing but STATUS and FAULT,
and the record holds its word and its address. -/
def Obligations.FaultDiscardsEveryChange : Prop :=
  ∀ (i : Instr) (s t : State), s.status = .running → exec i s = .next t → t.status = .halted →
    ∃ c info, t = s.haltedWith (FaultCause.kind c) c (encode i) info

/-- R93, R98: an instruction halts the machine under exactly the conditions of R93's table, with
that cause; no other instruction can fault. -/
def Obligations.FaultConditionsAreListed : Prop :=
  ∀ (i : Instr) (s t : State), s.status = .running → s.fault = none → exec i s = .next t →
    (t.status = .halted ↔ (s.faultOf i).isSome) ∧ t.fault.map FaultRecord.cause = s.faultOf i

/-- R43, R102: every instruction, in every state, answers a next state; none is refused. That one
which faults answers a next state too, the halted one, is the model's choice (log 1), with the
spec's decision D6 that the state is frozen (R46). -/
def Obligations.EveryInstructionAnswers : Prop :=
  ∀ (i : Instr) (s : State), ∃ t, exec i s = .next t

/-- R52 (D17, log 3): only `Cxkk` reads the random byte; every other instruction ignores it. -/
def Obligations.OnlyRndReadsTheRandomByte : Prop :=
  ∀ (i : Instr) (s t : State) (d : Nat), (∀ x kk, i ≠ .rnd x kk) → exec i s = .next t →
    exec i { s with draws := d } = .next { t with draws := d }

/-- R9: no instruction reads `ST`: with another value in it, the same happens to everything else,
and `Fx18` overwrites it alike. -/
def Obligations.NoInstructionReadsSoundTimer : Prop :=
  ∀ (i : Instr) (s t : State) (b : Byte), exec i s = .next t →
    ((∀ x, i ≠ .ldStVx x) → exec i { s with st := b } = .next { t with st := b }) ∧
    (∀ x, i = .ldStVx x → exec i { s with st := b } = .next t)

/-- R17 (e), (f), (g), R7, R46, R12: every step, of any event, keeps the invariants. -/
def Obligations.StepKeepsInvariants : Prop :=
  ∀ s t : State, s.Inv → step s = .next t → t.Inv

/-- R17, R16: the invariants hold at reset. -/
def Obligations.InvariantsHoldAtReset : Prop := State.reset.Inv
end

