-- ==== Sys2Proof/Laws/Encoding.lean ====
section
/-!
SUPPORT. What each field of 30_encoding R33 reads from a word put together from its fields (the
formats of R34), and what a row's mask leaves of such a word.
-/
namespace Sys2Proof

/-! ## Format `NNN` -/

theorem fieldN3_nnn (a : Nibble) (nnn : Addr12) : fieldN3 (a ++ nnn) = a :=
  BitVec.extractLsb'_append_eq_left

theorem fieldNnn_nnn (a : Nibble) (nnn : Addr12) : fieldNnn (a ++ nnn) = nnn :=
  BitVec.extractLsb'_append_eq_right

/-! ## Formats `XKK` and `X` -/

theorem fieldN3_xkk (a x : Nibble) (kk : Byte) : fieldN3 (a ++ x ++ kk) = a := by
  show BitVec.extractLsb' 12 4 (a ++ x ++ kk) = a
  rw [BitVec.extractLsb'_append_eq_of_le (by decide)]
  exact BitVec.extractLsb'_append_eq_left

theorem fieldX_xkk (a x : Nibble) (kk : Byte) : fieldX (a ++ x ++ kk) = x := by
  show BitVec.extractLsb' 8 4 (a ++ x ++ kk) = x
  rw [BitVec.extractLsb'_append_eq_of_le (by decide)]
  exact BitVec.extractLsb'_append_eq_right

theorem fieldKk_xkk (a x : Nibble) (kk : Byte) : fieldKk (a ++ x ++ kk) = kk :=
  BitVec.extractLsb'_append_eq_right

/-! ## Formats `XY` and `XYN` -/

theorem fieldN3_xyn (a x y n : Nibble) : fieldN3 (a ++ x ++ y ++ n) = a := by
  show BitVec.extractLsb' 12 4 (a ++ x ++ y ++ n) = a
  rw [BitVec.extractLsb'_append_eq_of_le (by decide), BitVec.extractLsb'_append_eq_of_le (by decide)]
  exact BitVec.extractLsb'_append_eq_left

theorem fieldX_xyn (a x y n : Nibble) : fieldX (a ++ x ++ y ++ n) = x := by
  show BitVec.extractLsb' 8 4 (a ++ x ++ y ++ n) = x
  rw [BitVec.extractLsb'_append_eq_of_le (by decide), BitVec.extractLsb'_append_eq_of_le (by decide)]
  exact BitVec.extractLsb'_append_eq_right

theorem fieldY_xyn (a x y n : Nibble) : fieldY (a ++ x ++ y ++ n) = y := by
  show BitVec.extractLsb' 4 4 (a ++ x ++ y ++ n) = y
  rw [BitVec.extractLsb'_append_eq_of_le (by decide)]
  exact BitVec.extractLsb'_append_eq_right

theorem fieldN_xyn (a x y n : Nibble) : fieldN (a ++ x ++ y ++ n) = n :=
  BitVec.extractLsb'_append_eq_right

/-! ## Masks -/

/-- The mask 0xF000 leaves the primary opcode of a `?nnn` word. -/
theorem mask_nnn (a : Nibble) (nnn : Addr12) : (a ++ nnn) &&& (0xF000 : Word) = a ++ 0#12 := by
  refine (BitVec.and_append (x₂ := 0xF#4) (y₂ := 0#12)).trans ?_
  rw [BitVec.and_zero, show a &&& 0xF#4 = a from BitVec.and_allOnes]

/-- The mask 0xF000 leaves the primary opcode of a `?xkk` word. -/
theorem mask_xkk (a x : Nibble) (kk : Byte) :
    (a ++ x ++ kk) &&& (0xF000 : Word) = a ++ 0#4 ++ 0#8 := by
  refine (BitVec.and_append (x₂ := 0xF#4 ++ 0#4) (y₂ := 0#8)).trans ?_
  rw [BitVec.and_append, BitVec.and_zero, BitVec.and_zero,
    show a &&& 0xF#4 = a from BitVec.and_allOnes]

/-- The mask 0xF0FF leaves all but `x` of a `?x??` word. -/
theorem mask_x (a x : Nibble) (kk : Byte) :
    (a ++ x ++ kk) &&& (0xF0FF : Word) = a ++ 0#4 ++ kk := by
  refine (BitVec.and_append (x₂ := 0xF#4 ++ 0#4) (y₂ := 0xFF#8)).trans ?_
  rw [BitVec.and_append, BitVec.and_zero, show a &&& 0xF#4 = a from BitVec.and_allOnes,
    show kk &&& 0xFF#8 = kk from BitVec.and_allOnes]

/-- The mask 0xF00F leaves the two opcodes of a `?xy?` word. -/
theorem mask_xy (a x y n : Nibble) :
    (a ++ x ++ y ++ n) &&& (0xF00F : Word) = a ++ 0#4 ++ 0#4 ++ n := by
  refine (BitVec.and_append (x₂ := 0xF#4 ++ 0#4 ++ 0#4) (y₂ := 0xF#4)).trans ?_
  rw [BitVec.and_append, BitVec.and_append, BitVec.and_zero, BitVec.and_zero,
    show a &&& 0xF#4 = a from BitVec.and_allOnes, show n &&& 0xF#4 = n from BitVec.and_allOnes]

/-- The mask 0xF000 leaves the primary opcode of a `?xyn` word. -/
theorem mask_xyn (a x y n : Nibble) :
    (a ++ x ++ y ++ n) &&& (0xF000 : Word) = a ++ 0#4 ++ 0#4 ++ 0#4 := by
  refine (BitVec.and_append (x₂ := 0xF#4 ++ 0#4 ++ 0#4) (y₂ := 0#4)).trans ?_
  rw [BitVec.and_append, BitVec.and_append, BitVec.and_zero, BitVec.and_zero, BitVec.and_zero,
    show a &&& 0xF#4 = a from BitVec.and_allOnes]

/-- A word is its high byte before its low byte (R32). -/
theorem wordOfBytes_bytes (w : Word) : wordOfBytes (highByte w) (lowByte w) = w := by
  show BitVec.extractLsb' 8 8 w ++ BitVec.extractLsb' 0 8 w = w
  rw [BitVec.extractLsb'_append_extractLsb'_eq_extractLsb' (by decide)]
  exact BitVec.extractLsb'_eq_self

end Sys2Proof
end

