-- ==== Sys2Proof/Laws/Memory.lean ====
section
/-!
SUPPORT. Main memory: what a read sees after a write, that every memory operation keeps the
canonical form, and what the checked multi-byte accesses of 20_memory R20, R21 and R24 answer.
-/
namespace Sys2Proof.Machine

/-! ## Reads after writes -/

@[simp] theorem Memory.read_nil (a : Nat) : Memory.read a [] = Memory.unlisted := rfl

theorem Memory.read_cons (a : Nat) (c : Host.Cell) (m : Memory) :
    Memory.read a (c :: m) = if a = c.1 then c.2 else Memory.read a m := rfl

theorem Memory.read_erase (a b : Nat) (m : Memory) :
    Memory.read b (Memory.erase a m) = if b = a then Memory.unlisted else Memory.read b m := by
  induction m with
  | nil => simp [Memory.erase]
  | cons c m ih =>
    by_cases hc : c.1 = a
    · have : Memory.erase a (c :: m) = Memory.erase a m := by simp [Memory.erase, hc]
      rw [this, ih, Memory.read_cons]
      by_cases hb : b = a <;> simp [hb, hc]
    · have : Memory.erase a (c :: m) = c :: Memory.erase a m := by simp [Memory.erase, hc]
      rw [this, Memory.read_cons, Memory.read_cons, ih]
      by_cases hb : b = c.1
      · simp [hb, hc]
      · simp [hb]

theorem Memory.read_insert (a b : Nat) (x : Byte) (m : Memory) :
    Memory.read b (Memory.insert a x (Memory.erase a m))
      = if b = a then x else Memory.read b m := by
  have key : ∀ m : Memory, (∀ c ∈ m, c.1 ≠ a) →
      Memory.read b (Memory.insert a x m) = if b = a then x else Memory.read b m := by
    intro m
    induction m with
    | nil => intro _; simp [Memory.insert, Memory.read_cons]
    | cons c m ih =>
      intro h
      have hc : c.1 ≠ a := h c (by simp)
      unfold Memory.insert
      split
      · simp [Memory.read_cons]
      · rw [Memory.read_cons, Memory.read_cons, ih fun d hd => h d (by simp [hd])]
        by_cases hb : b = c.1 <;> simp [hb, hc]
  rw [key _ (by simp [Memory.erase]), Memory.read_erase]
  split <;> rfl

/-- A write changes the byte written and no other; it needs no canonical form. -/
@[simp] theorem Memory.read_write (a b : Nat) (x : Byte) (m : Memory) :
    Memory.read b (Memory.write a x m) = if b = a then x else Memory.read b m := by
  unfold Memory.write
  split
  · subst_vars; exact Memory.read_erase a b m
  · exact Memory.read_insert a b x m

/-- After consecutive writes an address holds its byte of the list, or what it held before. -/
theorem Memory.read_writeList (base a : Nat) (bs : List Byte) (m : Memory) :
    Memory.read a (Memory.writeList base bs m)
      = if base ≤ a then (bs[a - base]?).getD (Memory.read a m) else Memory.read a m := by
  induction bs generalizing base m with
  | nil => simp [Memory.writeList]
  | cons b bs ih =>
    rw [Memory.writeList, ih, Memory.read_write]
    rcases lt_trichotomy a base with h | h | h
    · simp [show ¬ base + 1 ≤ a by omega, show ¬ base ≤ a by omega, show a ≠ base by omega]
    · subst h; simp
    · obtain ⟨k, rfl⟩ : ∃ k, a = base + 1 + k := ⟨a - (base + 1), by omega⟩
      have e : base + 1 + k - base = k + 1 := by omega
      simp [e, show base + 1 + k ≠ base by omega, show base ≤ base + 1 + k by omega]

/-! ## The canonical form -/

theorem Memory.wf_cons (c : Host.Cell) (m : Memory) :
    Memory.wf (c :: m) = true ↔
      c.1 < 4096 ∧ c.2 ≠ Memory.unlisted ∧ (∀ d ∈ m, c.1 < d.1) ∧ Memory.wf m = true := by
  simp only [Memory.wf, Bool.and_eq_true, decide_eq_true_eq, bne_iff_ne, ne_eq,
    List.all_eq_true, and_assoc]
  rfl

theorem Memory.wf_erase (a : Nat) (m : Memory) (h : Memory.wf m = true) :
    Memory.wf (Memory.erase a m) = true := by
  induction m with
  | nil => rfl
  | cons c m ih =>
    obtain ⟨h1, h2, h3, h4⟩ := (Memory.wf_cons c m).1 h
    by_cases hc : c.1 = a
    · simpa [Memory.erase, hc] using ih h4
    · have : Memory.erase a (c :: m) = c :: Memory.erase a m := by simp [Memory.erase, hc]
      rw [this, Memory.wf_cons]
      exact ⟨h1, h2, fun d hd => h3 d (List.mem_of_mem_filter hd), ih h4⟩

theorem Memory.mem_insert (a : Nat) (x : Byte) (m : Memory) (d : Host.Cell) :
    d ∈ Memory.insert a x m ↔ d = (a, x) ∨ d ∈ m := by
  induction m with
  | nil => simp [Memory.insert]
  | cons c m ih =>
    unfold Memory.insert
    split
    · simp
    · simp [ih]; tauto

theorem Memory.wf_insert (a : Nat) (x : Byte) (m : Memory) (h : Memory.wf m = true)
    (ha : a < 4096) (hx : x ≠ Memory.unlisted) (hm : ∀ d ∈ m, d.1 ≠ a) :
    Memory.wf (Memory.insert a x m) = true := by
  induction m with
  | nil => simp [Memory.insert, Memory.wf, Config.memSize, ha, hx]
  | cons c m ih =>
    have hca : c.1 ≠ a := hm c (by simp)
    obtain ⟨h1, h2, h3, h4⟩ := (Memory.wf_cons c m).1 h
    unfold Memory.insert
    split
    · rename_i hlt
      refine (Memory.wf_cons _ _).2 ⟨ha, hx, fun d hd => ?_, h⟩
      rcases List.mem_cons.1 hd with rfl | hd
      · exact hlt
      · exact lt_trans hlt (h3 d hd)
    · refine (Memory.wf_cons _ _).2 ⟨h1, h2, fun d hd => ?_, ih h4 fun d hd => hm d (by simp [hd])⟩
      rcases (Memory.mem_insert a x m d).1 hd with rfl | hd
      · simp only; omega
      · exact h3 d hd

/-- A write inside the 4096 bytes keeps the canonical form. -/
theorem Memory.wf_write (a : Nat) (x : Byte) (m : Memory) (h : Memory.wf m = true)
    (ha : a < 4096) : Memory.wf (Memory.write a x m) = true := by
  unfold Memory.write
  split
  · exact Memory.wf_erase a m h
  · exact Memory.wf_insert a x _ (Memory.wf_erase a m h) ha ‹_› (by simp [Memory.erase])

/-- Consecutive writes inside the 4096 bytes keep the canonical form. -/
theorem Memory.wf_writeList (base : Nat) (bs : List Byte) (m : Memory) (h : Memory.wf m = true)
    (hb : base + bs.length ≤ 4096) : Memory.wf (Memory.writeList base bs m) = true := by
  induction bs generalizing base m with
  | nil => exact h
  | cons b bs ih =>
    simp only [List.length_cons] at hb
    exact ih (base + 1) _ (Memory.wf_write base b m h (by omega)) (by omega)

/-- Reset's memory is canonical. -/
theorem State.reset_mem_wf : State.reset.mem.wf = true := rfl

/-! ## The checked accesses (R20, R21, R24) -/

theorem State.memRead_ok (s : State) (a : Nat) (h : a ≤ 0xFFF) :
    s.memRead a = .ok (s.mem.read a) := if_pos h

theorem State.memRead_error (s : State) (a : Nat) (h : 0xFFF < a) :
    s.memRead a = .error a := if_neg (by omega)

/-- A run of reads inside memory answers the bytes, lowest address first. -/
theorem State.readBytes_ok (s : State) (base n : Nat) (h : base + n ≤ 4096) :
    s.readBytes base n = .ok ((List.range' base n).map fun a => s.mem.read a) := by
  induction n generalizing base with
  | zero => rfl
  | succ n ih =>
    rw [State.readBytes, State.memRead_ok s base (by omega)]
    simp only [ih (base + 1) (by omega)]
    rfl

/-- A run of reads that leaves memory answers the lowest address above 0xFFF (R96). -/
theorem State.readBytes_error (s : State) (base n : Nat) (h0 : 0 < n) (h : 4096 < base + n) :
    s.readBytes base n = .error (max base 0x1000) := by
  induction n generalizing base with
  | zero => omega
  | succ n ih =>
    rw [State.readBytes]
    by_cases hb : base ≤ 0xFFF
    · rw [State.memRead_ok s base hb]
      simp only [ih (base + 1) (by omega) (by omega)]
      congr 1; omega
    · rw [State.memRead_error s base (by omega)]
      simp only
      congr 1; omega

/-- A run of writes inside memory stores the bytes and touches nothing else. -/
theorem State.writeBytes_ok (s : State) (base : Nat) (bs : List Byte)
    (h : base + bs.length ≤ 4096) :
    s.writeBytes base bs = .ok { s with mem := s.mem.writeList base bs } := by
  induction bs generalizing s base with
  | nil => rfl
  | cons b bs ih =>
    simp only [List.length_cons] at h
    rw [State.writeBytes, State.memWrite, if_pos (by omega : base ≤ 0xFFF)]
    simp only
    rw [ih _ (base + 1) (by omega)]
    rfl

/-- A run of writes that leaves memory answers the lowest address above 0xFFF (R96). -/
theorem State.writeBytes_error (s : State) (base : Nat) (bs : List Byte) (h0 : bs ≠ [])
    (h : 4096 < base + bs.length) : s.writeBytes base bs = .error (max base 0x1000) := by
  induction bs generalizing s base with
  | nil => exact absurd rfl h0
  | cons b bs ih =>
    simp only [List.length_cons] at h
    rw [State.writeBytes, State.memWrite]
    by_cases hb : base ≤ 0xFFF
    · rw [if_pos hb]
      simp only
      rw [ih _ (base + 1) (by rintro rfl; simp at h; omega) (by omega)]
      congr 1; omega
    · rw [if_neg hb]
      simp only
      congr 1; omega

/-- The fetch at an address with two bytes (R32, R44). -/
theorem State.fetchWord_ok (s : State) (h : s.pc.toNat ≤ 0xFFE) :
    s.fetchWord = .ok (wordOfBytes (s.mem.read s.pc.toNat) (s.mem.read (s.pc.toNat + 1))) := by
  rw [State.fetchWord, State.memRead_ok s _ (by omega)]
  simp only [State.memRead_ok s (s.pc.toNat + 1) (by omega)]

/-- The fetch where a byte is missing reports the lower missing address (R44). -/
theorem State.fetchWord_error (s : State) (h : 0xFFE < s.pc.toNat) :
    s.fetchWord = .error (max s.pc.toNat 0x1000) := by
  rw [State.fetchWord]
  by_cases hb : s.pc.toNat ≤ 0xFFF
  · rw [State.memRead_ok s _ hb]
    simp only [State.memRead_error s (s.pc.toNat + 1) (by omega)]
    congr 1; omega
  · rw [State.memRead_error s _ (by omega)]
    simp only
    congr 1; omega

end Sys2Proof.Machine
end

