-- ==== Sys2Proof/Laws/Ops.lean ====
section
/-!
SUPPORT. What the shared operations answer: register lists, the call stack, the keypad, the cells
of the framebuffer.
-/
namespace Sys2Proof.Machine

/-! ## Register lists (46_index_memory R91, R92) -/

theorem nibble_ofNat_toNat (x : Nibble) : BitVec.ofNat 4 x.toNat = x := by simp

theorem State.regsUpTo_length (s : State) (x : Nibble) :
    (s.regsUpTo x).length = x.toNat + 1 := by simp [State.regsUpTo]

/-- Entry `k` of the list `Fx55` stores is `V[k]`. -/
theorem State.regsUpTo_getElem? (s : State) (x y : Nibble) (h : y.toNat ≤ x.toNat) :
    (s.regsUpTo x)[y.toNat]? = some (s.reg y) := by
  simp only [State.regsUpTo, List.getElem?_map]
  rw [List.getElem?_eq_getElem (by simpa using Nat.lt_succ_of_le h)]
  simp

/-- Loading a register list changes `V` alone. -/
theorem State.setRegsFrom_eq (s : State) (k : Nat) (bs : List Byte) :
    s.setRegsFrom k bs = { s with v := (s.setRegsFrom k bs).v } := by
  induction bs generalizing s k with
  | nil => rfl
  | cons b bs ih =>
    rw [State.setRegsFrom, ih]
    rfl

/-- After loading a list from register `k` on, a register holds its byte of the list, or what it
held before. -/
theorem State.setRegsFrom_reg (s : State) (k : Nat) (bs : List Byte) (y : Nibble)
    (h : k + bs.length ≤ 16) :
    (s.setRegsFrom k bs).reg y
      = if k ≤ y.toNat then (bs[y.toNat - k]?).getD (s.reg y) else s.reg y := by
  induction bs generalizing s k with
  | nil => simp [State.setRegsFrom]
  | cons b bs ih =>
    simp only [List.length_cons] at h
    have hk : (BitVec.ofNat 4 k).toNat = k := by
      rw [BitVec.toNat_ofNat]; exact Nat.mod_eq_of_lt (by omega)
    have heq : BitVec.ofNat 4 k = y ↔ k = y.toNat := by
      constructor
      · rintro rfl; exact hk.symm
      · rintro rfl; exact nibble_ofNat_toNat y
    rw [State.setRegsFrom, ih _ (k + 1) (by omega), State.setReg_reg]
    simp only [heq]
    rcases lt_trichotomy y.toNat k with hy | hy | hy
    · simp [show ¬ k + 1 ≤ y.toNat by omega, show ¬ k ≤ y.toNat by omega,
        show k ≠ y.toNat by omega]
    · subst hy; simp
    · obtain ⟨j, hj⟩ : ∃ j, y.toNat = k + 1 + j := ⟨y.toNat - (k + 1), by omega⟩
      simp [hj, show k + 1 + j - k = j + 1 by omega, show k ≤ k + 1 + j by omega,
        show k ≠ k + 1 + j by omega]

/-! ## Call stack (R8, R74, R75) -/

theorem State.push_some (s : State) (a : Word) (h : s.sp.val < 16) :
    s.push a = some { s with stack := s.stack.set s.sp.val a h, sp := ⟨s.sp.val + 1, by omega⟩ } :=
  dif_pos h

theorem State.push_none (s : State) (a : Word) (h : s.sp.val = 16) : s.push a = none :=
  dif_neg (by omega)

theorem State.pop_some (s : State) (h : 0 < s.sp.val) :
    s.pop = some (s.stack[s.sp.val - 1]'(by omega), { s with sp := ⟨s.sp.val - 1, by omega⟩ }) :=
  dif_pos h

theorem State.pop_none (s : State) (h : s.sp.val = 0) : s.pop = none :=
  dif_neg (by omega)

/-! ## Keypad (R11, R58, R84) -/

theorem State.keyState_some (s : State) (k : Nat) (h : k < 16) :
    s.keyState k = some s.keys[k] := by simp [State.keyState, h]

theorem State.keyState_none (s : State) (k : Nat) (h : 16 ≤ k) : s.keyState k = none := by
  simp [State.keyState, h]

/-- `lowestKey` answers `k` exactly when key `k` is pressed and no lower key is. -/
theorem State.lowestKey_some (s : State) (k : Nat) :
    s.lowestKey = some k ↔ ∃ h : k < 16, s.keys[k] = true ∧
      ∀ j (hj : j < k), s.keys[j] = false := by
  simp [State.lowestKey, List.findIdx?_eq_some_iff_getElem]

/-- `lowestKey` answers nothing exactly when no key is pressed. -/
theorem State.lowestKey_none (s : State) :
    s.lowestKey = none ↔ ∀ k (h : k < 16), s.keys[k] = false := by
  simp only [State.lowestKey, List.findIdx?_eq_none_iff, id]
  constructor
  · intro h k hk
    exact h _ (by simp)
  · intro h b hb
    obtain ⟨k, hk, rfl⟩ := List.mem_iff_getElem.1 hb
    simpa using h k (by simpa using hk)

/-! ## Framebuffer cells (R10, R81) -/

/-- Toggling a cell changes that cell and no other. -/
@[simp] theorem Framebuffer.cell_toggle (fb : Framebuffer) (c d : Fin 2048) :
    Framebuffer.cell (Framebuffer.toggle fb c) d
      = (Framebuffer.cell fb d ^^ decide (c = d)) := by
  simp only [Framebuffer.cell, Framebuffer.toggle, Vector.getElem_set]
  have hm : d.val % 64 < 64 := Nat.mod_lt _ (by decide)
  by_cases hr : c.val / 64 = d.val / 64
  · have e : c = d ↔ c.val % 64 = d.val % 64 := by rw [Fin.ext_iff]; omega
    simp only [hr, if_true, BitVec.getLsbD_xor, BitVec.getLsbD_shiftLeft, BitVec.getLsbD_one, e]
    congr 1
    by_cases h1 : c.val % 64 = d.val % 64
    · simp [h1]; omega
    · simp [h1]; omega
  · have : c ≠ d := by rintro rfl; exact hr rfl
    simp [hr, this]

@[simp] theorem cell_blankScreen (c : Fin 2048) : Framebuffer.cell blankScreen c = false := by
  simp [Framebuffer.cell, blankScreen]

/-- Toggling a list of cells without repeats flips exactly the listed cells. -/
theorem toggleCells_cell (fb : Framebuffer) (hit : Bool) (cs : List (Fin 2048)) (hn : cs.Nodup)
    (d : Fin 2048) :
    Framebuffer.cell (toggleCells fb hit cs).1 d = (Framebuffer.cell fb d ^^ decide (d ∈ cs)) := by
  induction cs generalizing fb hit with
  | nil => simp [toggleCells]
  | cons c cs ih =>
    obtain ⟨hc, hn⟩ := List.nodup_cons.1 hn
    rw [toggleCells, ih _ _ hn, Framebuffer.cell_toggle]
    by_cases h : c = d
    · subst h; simp [hc]
    · simp [h, Ne.symm h]

/-- ... and reports a hit exactly when one of them was lit (or one was reported before). -/
theorem toggleCells_hit (fb : Framebuffer) (hit : Bool) (cs : List (Fin 2048)) (hn : cs.Nodup) :
    (toggleCells fb hit cs).2 = (hit || cs.any fun c => Framebuffer.cell fb c) := by
  induction cs generalizing fb hit with
  | nil => simp [toggleCells]
  | cons c cs ih =>
    obtain ⟨hc, hn⟩ := List.nodup_cons.1 hn
    rw [toggleCells, ih _ _ hn, List.any_cons, Bool.or_assoc]
    congr 2
    rw [Bool.eq_iff_iff]
    simp only [List.any_eq_true, Framebuffer.cell_toggle]
    refine exists_congr fun d => and_congr_right fun hd => ?_
    have : c ≠ d := by rintro rfl; exact hc hd
    simp [this]

end Sys2Proof.Machine
end

