-- ==== Sys2Proof/Laws/PerInstr.lean ====
section
/-!
SUPPORT. Statements per instruction. The family `InRow`: an instruction's word is one its own row
of the opcode map (30_encoding R38) admits, and that row is in the map.
-/
namespace Sys2Proof.Laws.InRow

/-- The row of the instruction is in the map of R38, and admits the word `encode` gives. -/
def Statement (i : Instr) : Prop := i.row ∈ opcodeMap ∧ i.row.admits (encode i) = true

theorem row_mem (i : Instr) : i.row ∈ opcodeMap := by
  cases i <;> simp [opcodeMap, Instr.row]

theorem cls : Statement .cls :=
  ⟨row_mem _, rfl⟩

theorem ret : Statement .ret :=
  ⟨row_mem _, rfl⟩

theorem jp (nnn : Addr12) : Statement (.jp nnn) :=
  ⟨row_mem _, beq_iff_eq.2 (mask_nnn ..)⟩

theorem call (nnn : Addr12) : Statement (.call nnn) :=
  ⟨row_mem _, beq_iff_eq.2 (mask_nnn ..)⟩

theorem seImm (x : Nibble) (kk : Byte) : Statement (.seImm x kk) :=
  ⟨row_mem _, beq_iff_eq.2 (mask_xkk ..)⟩

theorem sneImm (x : Nibble) (kk : Byte) : Statement (.sneImm x kk) :=
  ⟨row_mem _, beq_iff_eq.2 (mask_xkk ..)⟩

theorem seReg (x y : Nibble) : Statement (.seReg x y) :=
  ⟨row_mem _, beq_iff_eq.2 (mask_xy ..)⟩

theorem ldImm (x : Nibble) (kk : Byte) : Statement (.ldImm x kk) :=
  ⟨row_mem _, beq_iff_eq.2 (mask_xkk ..)⟩

theorem addImm (x : Nibble) (kk : Byte) : Statement (.addImm x kk) :=
  ⟨row_mem _, beq_iff_eq.2 (mask_xkk ..)⟩

theorem ldReg (x y : Nibble) : Statement (.ldReg x y) :=
  ⟨row_mem _, beq_iff_eq.2 (mask_xy ..)⟩

theorem or (x y : Nibble) : Statement (.or x y) :=
  ⟨row_mem _, beq_iff_eq.2 (mask_xy ..)⟩

theorem and (x y : Nibble) : Statement (.and x y) :=
  ⟨row_mem _, beq_iff_eq.2 (mask_xy ..)⟩

theorem xor (x y : Nibble) : Statement (.xor x y) :=
  ⟨row_mem _, beq_iff_eq.2 (mask_xy ..)⟩

theorem addReg (x y : Nibble) : Statement (.addReg x y) :=
  ⟨row_mem _, beq_iff_eq.2 (mask_xy ..)⟩

theorem sub (x y : Nibble) : Statement (.sub x y) :=
  ⟨row_mem _, beq_iff_eq.2 (mask_xy ..)⟩

theorem shr (x y : Nibble) : Statement (.shr x y) :=
  ⟨row_mem _, beq_iff_eq.2 (mask_xy ..)⟩

theorem subn (x y : Nibble) : Statement (.subn x y) :=
  ⟨row_mem _, beq_iff_eq.2 (mask_xy ..)⟩

theorem shl (x y : Nibble) : Statement (.shl x y) :=
  ⟨row_mem _, beq_iff_eq.2 (mask_xy ..)⟩

theorem sneReg (x y : Nibble) : Statement (.sneReg x y) :=
  ⟨row_mem _, beq_iff_eq.2 (mask_xy ..)⟩

theorem ldI (nnn : Addr12) : Statement (.ldI nnn) :=
  ⟨row_mem _, beq_iff_eq.2 (mask_nnn ..)⟩

theorem jpV0 (nnn : Addr12) : Statement (.jpV0 nnn) :=
  ⟨row_mem _, beq_iff_eq.2 (mask_nnn ..)⟩

theorem rnd (x : Nibble) (kk : Byte) : Statement (.rnd x kk) :=
  ⟨row_mem _, beq_iff_eq.2 (mask_xkk ..)⟩

theorem drw (x y n : Nibble) : Statement (.drw x y n) :=
  ⟨row_mem _, beq_iff_eq.2 (mask_xyn ..)⟩

theorem skp (x : Nibble) : Statement (.skp x) :=
  ⟨row_mem _, beq_iff_eq.2 (mask_x ..)⟩

theorem sknp (x : Nibble) : Statement (.sknp x) :=
  ⟨row_mem _, beq_iff_eq.2 (mask_x ..)⟩

theorem ldVxDt (x : Nibble) : Statement (.ldVxDt x) :=
  ⟨row_mem _, beq_iff_eq.2 (mask_x ..)⟩

theorem ldVxK (x : Nibble) : Statement (.ldVxK x) :=
  ⟨row_mem _, beq_iff_eq.2 (mask_x ..)⟩

theorem ldDtVx (x : Nibble) : Statement (.ldDtVx x) :=
  ⟨row_mem _, beq_iff_eq.2 (mask_x ..)⟩

theorem ldStVx (x : Nibble) : Statement (.ldStVx x) :=
  ⟨row_mem _, beq_iff_eq.2 (mask_x ..)⟩

theorem addI (x : Nibble) : Statement (.addI x) :=
  ⟨row_mem _, beq_iff_eq.2 (mask_x ..)⟩

theorem ldF (x : Nibble) : Statement (.ldF x) :=
  ⟨row_mem _, beq_iff_eq.2 (mask_x ..)⟩

theorem ldB (x : Nibble) : Statement (.ldB x) :=
  ⟨row_mem _, beq_iff_eq.2 (mask_x ..)⟩

theorem stRegs (x : Nibble) : Statement (.stRegs x) :=
  ⟨row_mem _, beq_iff_eq.2 (mask_x ..)⟩

theorem ldRegs (x : Nibble) : Statement (.ldRegs x) :=
  ⟨row_mem _, beq_iff_eq.2 (mask_x ..)⟩

end Sys2Proof.Laws.InRow
end

