-- ==== Sys2Proof/Laws/Step.lean ====
section
/-!
SUPPORT. What a step does first: the Cycle when no event is listed, else the first event
(00_scope R3, log 2); the two cases of a Tick; and that a placed word is what the next step runs
(log 11).
-/
namespace Sys2Proof.Machine

theorem step_of_no_event (s : State) (h : s.events = []) : step s = cycle s := by
  simp [step, nextEvent, h]

theorem step_of_event (s : State) (e : Event) (es : List Event) (h : s.events = e :: es) :
    step s = handle e { s with events := es } := by
  simp [step, nextEvent, h]

/-- A listed Cycle is a Cycle of the state with it taken off the list. -/
theorem step_of_listed_cycle (s : State) (es : List Event) (h : s.events = .cycle :: es) :
    step s = cycle { s with events := es } :=
  step_of_event s .cycle es h

theorem State.tick_running (s : State) (h : s.status = .running) :
    s.tick = { s with dt := countDown s.dt, st := countDown s.st, lastTone := s.st == 1 } := by
  simp [State.tick, State.toneStart, h]

theorem State.tick_halted (s : State) (h : s.status = .halted) :
    s.tick = { s with lastTone := false } := by
  simp [State.tick, State.toneStart, h]

theorem cycle_halted (s : State) (h : s.status = .halted) : cycle s = .next s := by
  simp [cycle, h]

/-- A Cycle whose fetch is in range: the word at `pc`, decoded, is executed or halts as invalid. -/
theorem cycle_fetched (s : State) (h : s.status = .running) (hp : s.pc.toNat ≤ 0xFFE) :
    cycle s = match decode (wordOfBytes (s.mem.read s.pc.toNat) (s.mem.read (s.pc.toNat + 1))) with
      | .invalid op => .next (s.raise .invalidOpcode op op.toNat)
      | .op i => exec i s := by
  cases hd : decode (wordOfBytes (s.mem.read s.pc.toNat) (s.mem.read (s.pc.toNat + 1))) <;>
    simp [cycle, h, State.fetchWord_ok s hp, hd]

/-- A Cycle whose fetch is out of range halts. -/
theorem cycle_unfetched (s : State) (h : s.status = .running) (hp : 0xFFE < s.pc.toNat) :
    cycle s = .next (s.raise .fetch 0 (max s.pc.toNat 0x1000)) := by
  simp [cycle, h, State.fetchWord_error s hp]

theorem State.placeWord_pc_le (s : State) (w : Word) : (s.placeWord w).pc.toNat ≤ 0xFFE := by
  simp only [State.placeWord]
  split
  · assumption
  · decide

/-- From any state, the step after placing a word runs that word. -/
theorem step_placeWord (s : State) (w : Word) :
    step (s.placeWord w) = match decode w with
      | .invalid op => .next ((s.placeWord w).raise .invalidOpcode op op.toNat)
      | .op i => exec i (s.placeWord w) := by
  have hw : wordOfBytes ((s.placeWord w).mem.read (s.placeWord w).pc.toNat)
      ((s.placeWord w).mem.read ((s.placeWord w).pc.toNat + 1)) = w := by
    simp only [State.placeWord, Memory.read_writeList]
    simpa using wordOfBytes_bytes w
  rw [step_of_no_event _ rfl, cycle_fetched _ rfl (s.placeWord_pc_le w)]
  cases hd : decode w <;> simp [hw, hd]

end Sys2Proof.Machine
end

