-- ==== Sys2Proof/Tests/Slice0.lean ====
section
/-!
SUPPORT. The model's own tests: the checks of WellFormed refuse an ill-formed term each; words
written out from 30_encoding R38 decode to their instructions; single steps against the vectors of
95_test_vectors.md (the id of the vector stands in each name or comment); and, for every statement
with hypotheses, a witness that meets them.
-/
namespace Sys2Proof.Tests

open Sys2Proof.Machine

/-! ## Well-formedness: one ill-formed term per check -/

/-- A ROM of 3585 bytes is one too long (R26, D21). -/
theorem test_wf_rom_too_long : (Event.loadRom (List.replicate 3585 0)).wellFormed = false := by
  simp only [Event.wellFormed, List.length_replicate]
  decide

theorem test_wf_rom_longest : (Event.loadRom (List.replicate 3584 0)).wellFormed = true := by
  simp only [Event.wellFormed, List.length_replicate]
  decide

/-- Key 16 does not exist (R50, D29). -/
theorem test_wf_key_16 : (Event.setKey 16 true).wellFormed = false := by decide

theorem test_wf_key_15 : (Event.setKey 15 true).wellFormed = true := by decide

/-- A row that fixes a bit outside its mask. -/
theorem test_wf_row_stray_bit : Row.wellFormed ⟨"BAD", 0x5001, 0xF000⟩ = false := by decide

/-- Two rows that share a word. -/
theorem test_wf_rows_overlap :
    Row.disjoint ⟨"A", 0x5000, 0xF000⟩ ⟨"B", 0x5000, 0xF00F⟩ = false := by decide

/-- 95 section 2.1: `01E0` matches no row, one digit away from `00E0`. -/
theorem test_wf_word_01E0 : definedWord 0x01E0 = false := by decide

theorem test_map_rows_wellFormed : opcodeMap.all Row.wellFormed = true := by decide

theorem test_map_rows_disjoint : opcodeMap.Pairwise (fun r q => r.disjoint q = true) := by decide

/-! ## Decoding: each constructor's word, written bit by bit from R38 -/

theorem test_decode_fixed :
    decode 0b0000000011100000 = .op .cls ∧ decode 0b0000000011101110 = .op .ret := by decide

theorem test_decode_nnn :
    decode 0b0001101010111100 = .op (.jp 0xABC) ∧ decode 0b0010001100000001 = .op (.call 0x301) ∧
    decode 0b1010001011110000 = .op (.ldI 0x2F0) ∧
    decode 0b1011111111111111 = .op (.jpV0 0xFFF) := by decide

theorem test_decode_xkk :
    decode 0b0011001100101010 = .op (.seImm 3 0x2A) ∧
    decode 0b0100001100101010 = .op (.sneImm 3 0x2A) ∧
    decode 0b0110101000111100 = .op (.ldImm 10 0x3C) ∧
    decode 0b0111000100100000 = .op (.addImm 1 0x20) ∧
    decode 0b1100001100001111 = .op (.rnd 3 0x0F) := by decide

theorem test_decode_xy :
    decode 0b0101000100100000 = .op (.seReg 1 2) ∧ decode 0b1001000100100000 = .op (.sneReg 1 2) ∧
    decode 0b1000000100100000 = .op (.ldReg 1 2) ∧ decode 0b1000000100100001 = .op (.or 1 2) ∧
    decode 0b1000000100100010 = .op (.and 1 2) ∧ decode 0b1000000100100011 = .op (.xor 1 2) ∧
    decode 0b1000000100100100 = .op (.addReg 1 2) ∧ decode 0b1000000100100101 = .op (.sub 1 2) ∧
    decode 0b1000101010110110 = .op (.shr 10 11) ∧ decode 0b1000000100100111 = .op (.subn 1 2) ∧
    decode 0b1000001010101110 = .op (.shl 2 10) := by decide

theorem test_decode_xyn : decode 0b1101011110100101 = .op (.drw 7 10 5) := by decide

theorem test_decode_x :
    decode 0b1110010010011110 = .op (.skp 4) ∧ decode 0b1110111110100001 = .op (.sknp 15) ∧
    decode 0b1111010100000111 = .op (.ldVxDt 5) ∧ decode 0b1111001000001010 = .op (.ldVxK 2) ∧
    decode 0b1111010100010101 = .op (.ldDtVx 5) ∧ decode 0b1111010100011000 = .op (.ldStVx 5) ∧
    decode 0b1111001000011110 = .op (.addI 2) ∧ decode 0b1111000100101001 = .op (.ldF 1) ∧
    decode 0b1111000000110011 = .op (.ldB 0) ∧ decode 0b1111001001010101 = .op (.stRegs 2) ∧
    decode 0b1111111101100101 = .op (.ldRegs 15) := by decide

/-- 95 section 2.1, the invalid neighbours. -/
theorem test_decode_invalid :
    [0x0000, 0x00E1, 0x00EF, 0x01E0, 0x0FFF, 0x5011, 0x8008, 0x800F, 0x9001, 0xE09F, 0xE000,
      0xF000, 0xF01F, 0xF075, 0xF085, 0xFFFF].all
      (fun w : Word => decode w == .invalid w) = true := by decide

theorem test_tableWord : decodeTableWord 16 0xD7A5 = some (.drw 7 10 5) := by decide

/-- The bytes in memory are D7 then A5 (R32, 95 section 2.1). -/
theorem test_bytes_order : decodeBytes 0xD7 0xA5 = .op (.drw 7 10 5) := by decide

/-! ## Single steps (95_test_vectors.md) -/

/-- The next state of one step from reset with the word `w` at 0x200 and the changes `f` made
passes `p`. -/
def after (w : Nat) (f : State → State) (p : State → Bool) : Bool :=
  match step ((f State.reset).withFetchWord 16 w) with
  | .next t => p t
  | .fault _ => false
  | .refused _ => false

/-- Halted at 0x200 with this record. -/
def halted (k : FaultKind) (c : FaultCause) (op : Word) (info : Nat) (t : State) : Bool :=
  t.status == .halted && t.fault == some ⟨k, c, op, 0x200, info⟩ && t.pc == 0x200

/-- Memory with these bytes from `a` on. -/
def withBytes (a : Nat) (bs : List Byte) (s : State) : State :=
  { s with mem := s.mem.writeList a bs }

/-- Key `k` pressed. -/
def withKey (k : Fin 16) (s : State) : State := { s with keys := s.keys.set k.val true k.isLt }

theorem test_seImm_K1 : after 0x332A (·.setReg 3 0x2A) (·.pc == 0x204) = true := by decide
theorem test_seImm_K2 : after 0x332B (·.setReg 3 0x2A) (·.pc == 0x202) = true := by decide
theorem test_sneImm_K3 : after 0x432A (·.setReg 3 0x2A) (·.pc == 0x202) = true := by decide
theorem test_sneImm_K4 : after 0x4300 (·.setReg 3 0x2A) (·.pc == 0x204) = true := by decide
theorem test_seReg_K6 :
    after 0x5120 (fun s => (s.setReg 1 7).setReg 2 7) (·.pc == 0x204) = true := by decide
theorem test_seReg_K7 :
    after 0x5120 (fun s => (s.setReg 1 7).setReg 2 8) (·.pc == 0x202) = true := by decide
theorem test_sneReg_K9 :
    after 0x9120 (fun s => (s.setReg 1 7).setReg 2 8) (·.pc == 0x204) = true := by decide
theorem test_sneReg_K11 : after 0x9330 (·.setReg 3 9) (·.pc == 0x202) = true := by decide
theorem test_skp_K12 :
    after 0xE49E (fun s => withKey 10 (s.setReg 4 0x0A)) (·.pc == 0x204) = true := by decide
theorem test_skp_K18 :
    after 0xE09E (·.setReg 0 0x10) (halted .outOfRange .key 0xE09E 0x10) = true := by decide
theorem test_sknp_K15 :
    after 0xE4A1 (fun s => withKey 10 (s.setReg 4 0x0A)) (·.pc == 0x202) = true := by decide
theorem test_sknp_K19 :
    after 0xE0A1 (·.setReg 0 0xFF) (halted .outOfRange .key 0xE0A1 0xFF) = true := by decide

theorem test_ldImm_A2 : after 0x6F07 id (fun t => t.reg 15 == 7 && t.pc == 0x202) = true := by
  decide
theorem test_addImm_A3 :
    after 0x7120 (fun s => (s.setReg 1 0xF0).setReg 15 0x55)
      (fun t => t.reg 1 == 0x10 && t.reg 15 == 0x55) = true := by decide
theorem test_ldReg_A7 : after 0x8120 (·.setReg 2 0x99) (·.reg 1 == 0x99) = true := by decide
theorem test_or_A8 :
    after 0x8121 (fun s => ((s.setReg 1 0x0F).setReg 2 0xF0).setReg 15 0x77)
      (fun t => t.reg 1 == 0xFF && t.reg 15 == 0x77) = true := by decide
theorem test_and_A9 :
    after 0x8122 (fun s => (s.setReg 1 0x3C).setReg 2 0x0F) (·.reg 1 == 0x0C) = true := by decide
theorem test_xor_A11 :
    after 0x8113 (fun s => (s.setReg 1 0x5A).setReg 15 0x77)
      (fun t => t.reg 1 == 0 && t.reg 15 == 0x77) = true := by decide
theorem test_addReg_A17 :
    after 0x8F14 (fun s => (s.setReg 15 0xF0).setReg 1 0x20) (·.reg 15 == 1) = true := by decide
theorem test_addReg_A19 :
    after 0x81F4 (fun s => (s.setReg 1 0xFF).setReg 15 0x01)
      (fun t => t.reg 1 == 0 && t.reg 15 == 1) = true := by decide
theorem test_sub_A23 :
    after 0x8015 (fun s => (s.setReg 0 3).setReg 1 5)
      (fun t => t.reg 0 == 0xFE && t.reg 15 == 0) = true := by decide
theorem test_sub_A24 :
    after 0x8015 (fun s => (s.setReg 0 7).setReg 1 7)
      (fun t => t.reg 0 == 0 && t.reg 15 == 1) = true := by decide
theorem test_shr_A33 :
    after 0x82A6 (fun s => (s.setReg 2 0xFF).setReg 10 0x12)
      (fun t => t.reg 2 == 0x7F && t.reg 10 == 0x12 && t.reg 15 == 1) = true := by decide
theorem test_subn_A38 :
    after 0x8017 (fun s => (s.setReg 0 5).setReg 1 3)
      (fun t => t.reg 0 == 0xFE && t.reg 1 == 3 && t.reg 15 == 0) = true := by decide
theorem test_subn_A40 :
    after 0x8F17 (fun s => (s.setReg 15 2).setReg 1 1) (·.reg 15 == 0) = true := by decide
theorem test_shl_A41 :
    after 0x820E (·.setReg 2 0x81) (fun t => t.reg 2 == 0x02 && t.reg 15 == 1) = true := by decide
theorem test_shl_A45 : after 0x8F0E (·.setReg 15 0x41) (·.reg 15 == 0) = true := by decide

theorem test_jp_J2 : after 0x1201 id (·.pc == 0x201) = true := by decide
theorem test_call_J5 :
    after 0x2ABC (fun s => { s with sp := 15 })
      (fun t => t.pc == 0xABC && t.sp == 16 && t.stack[15] == 0x202) = true := by decide
theorem test_call_J6 :
    after 0x2ABC (fun s => { s with sp := 16 })
      (halted .stackViolation .overflow 0x2ABC 16) = true := by decide
theorem test_ret_J7 :
    after 0x00EE (fun s => { s with sp := 1, stack := s.stack.set 0 0x0FFF })
      (fun t => t.pc == 0xFFF && t.sp == 0 && t.stack[0] == 0xFFF) = true := by decide
theorem test_ret_J9 :
    after 0x00EE id (halted .stackViolation .underflow 0x00EE 0) = true := by decide
theorem test_jpV0_J11 :
    after 0xB300 (fun s => (s.setReg 0 0).setReg 3 0x55) (·.pc == 0x300) = true := by decide
theorem test_jpV0_J12 : after 0xBFFF (·.setReg 0 0xFF) (·.pc == 0x10FE) = true := by decide

theorem test_cls_G13 :
    after 0x00E0 (fun s => (s.setFb ((s.fb.toggle 0).toggle 2047)).setReg 15 9)
      (fun t => !t.fb.cell 0 && !t.fb.cell 2047 && t.reg 15 == 9) = true := by decide
/-- G1, second form: the wrap at the right edge stays in the row. -/
theorem test_drw_G1 :
    after 0xD011 (fun s => withBytes 0x300 [0xFF] (((s.setI 0x300).setReg 0 62).setReg 1 31))
      (fun t => t.fb.cell 2046 && t.fb.cell 2047 && t.fb.cell 1984 && t.fb.cell 1989 &&
        !t.fb.cell 1990 && !t.fb.cell 2045 && t.reg 15 == 0) = true := by decide
/-- G4: the column is the old `VF`; G2: a lit cell toggled off is a collision. -/
theorem test_drw_G2_G4 :
    after 0xDF11 (fun s => withBytes 0x300 [0x80]
        (((s.setI 0x300).setReg 15 0x0A).setReg 1 2)) (fun t => t.fb.cell 138 && t.reg 15 == 0) &&
    after 0xD121 (fun s => withBytes 0x300 [0xF0] ((s.setI 0x300).setFb (s.fb.toggle 0)))
      (fun t => !t.fb.cell 0 && t.fb.cell 3 && !t.fb.cell 4 && t.reg 15 == 1) = true := by decide

/-- T1 for every random byte: the bits outside the mask are 0 (R82). -/
theorem test_rnd_T2 : after 0xC300 (·.setReg 3 0x55) (fun t => t.draws == 1) = true := by decide
theorem test_ldVxDt_T4 :
    after 0xF507 (·.setDt 0x2C) (fun t => t.reg 5 == 0x2C && t.dt == 0x2C) = true := by decide
theorem test_ldDtVx_T5 : after 0xF515 (·.setReg 5 0x3C) (·.dt == 0x3C) = true := by decide
theorem test_ldStVx_T6 : after 0xF518 (·.setReg 5 2) (·.st == 2) = true := by decide
theorem test_ldVxK_T7 :
    after 0xF20A (·.setReg 2 0x77) (fun t => t.pc == 0x200 && t.reg 2 == 0x77) = true := by decide
/-- T8: key 0 is detected; T9: the lowest of several. -/
theorem test_ldVxK_T8_T9 :
    after 0xF20A (fun s => withKey 0 (s.setReg 2 0x77)) (fun t => t.reg 2 == 0 && t.pc == 0x202) &&
    after 0xF20A (fun s => withKey 7 (withKey 3 s)) (fun t => t.reg 2 == 3 && t.pc == 0x202)
      = true := by decide

theorem test_ldI_X1 : after 0xA2F0 (·.setI 0xFFFF) (·.i == 0x2F0) = true := by decide
theorem test_addI_X3 :
    after 0xF01E (fun s => ((s.setI 0xFFF).setReg 0 1).setReg 15 0x55)
      (fun t => t.i == 0x1000 && t.reg 15 == 0x55) = true := by decide
theorem test_addI_X4 : after 0xF01E (fun s => (s.setI 0xFFFF).setReg 0 1) (·.i == 0) = true := by
  decide
theorem test_ldF_X6 : after 0xF129 (·.setReg 1 0xFF) (·.i == 0x4FB) = true := by decide
theorem test_ldB_X9 :
    after 0xF033 (fun s => (s.setI 0xFFD).setReg 0 0xFF)
      (fun t => t.mem.read 0xFFD == 2 && t.mem.read 0xFFE == 5 && t.mem.read 0xFFF == 5)
      = true := by decide
theorem test_ldB_X10 :
    after 0xF033 (fun s => (s.setI 0xFFE).setReg 0 0xFF)
      (fun t => halted .outOfRange .dataWrite 0xF033 0x1000 t && t.mem.read 0xFFE == 0)
      = true := by decide
theorem test_stRegs_X11 :
    after 0xF255 (fun s => (((s.setI 0x400).setReg 0 0x11).setReg 2 0x33).setReg 3 0x44)
      (fun t => t.mem.read 0x400 == 0x11 && t.mem.read 0x402 == 0x33 && t.mem.read 0x403 == 0 &&
        t.i == 0x400) = true := by decide
theorem test_stRegs_X13 :
    after 0xF155 (fun s => (s.setI 0xFFF).setReg 0 0xAB)
      (fun t => halted .outOfRange .dataWrite 0xF155 0x1000 t && t.mem.read 0xFFF == 0)
      = true := by decide
theorem test_ldRegs_X16 :
    after 0xF165 (fun s => withBytes 0x400 [0xDE, 0xAD, 0x55] ((s.setI 0x400).setReg 2 0x99))
      (fun t => t.reg 0 == 0xDE && t.reg 1 == 0xAD && t.reg 2 == 0x99 && t.i == 0x400)
      = true := by decide
theorem test_ldRegs_X20 :
    after 0xF165 (·.setI 0x2000) (halted .outOfRange .dataRead 0xF165 0x2000) = true := by decide

/-- Vector of 2.1: 0000, what empty memory holds, halts at 0x200. -/
theorem test_invalid_0000 :
    after 0x0000 id (halted .invalidOpcode .invalidOpcode 0x0000 0) = true := by decide

/-- F7: a fetch at 0x10FE; the codes of R93 are 3 and 1. -/
theorem test_fetch_F7 :
    step { State.reset with pc := 0x10FE }
      = .next (State.raise { State.reset with pc := 0x10FE } .fetch 0 0x10FE) ∧
    (FaultCause.kind .fetch).code = 3 ∧ FaultCause.code .fetch = 1 := ⟨rfl, rfl, rfl⟩

/-- T12: both timers step in one Tick, and the Tick that takes `ST` from 1 to 0 signals. -/
theorem test_tick_T12 :
    (match step { State.reset with dt := 0xFF, st := 1, events := [.tick] } with
      | .next t => t.dt == 0xFE && t.st == 0 && t.lastTone && t.events == []
      | .fault _ => false
      | .refused _ => false) = true := by decide

/-- T15, first event. -/
theorem test_setKey_T15 :
    (match step { State.reset with events := [.setKey 5 true] } with
      | .next t => t.keys[5] && !t.keys[4] && t.pc == 0x200
      | .fault _ => false
      | .refused _ => false) = true := by decide

/-- P1's bytes loaded: the first word is at 0x200. -/
theorem test_loadRom_P1 :
    (match step { State.reset with events := [.loadRom [0x60, 0x05, 0x61, 0x03, 0x80, 0x14]] } with
      | .next t => t.mem.read 0x200 == 0x60 && t.mem.read 0x205 == 0x14 && t.mem.read 0x206 == 0
      | .fault _ => false
      | .refused _ => false) = true := by decide

/-- R107 (3): the launch image goes below the program, 512 bytes at most. -/
theorem test_placeLow :
    (match placeLow [0xF0, 0x90] State.reset with
      | .next t => t.mem.read 0 == 0xF0 && t.mem.read 1 == 0x90
      | .fault _ => false
      | .refused _ => false) = true ∧
    placeLow (List.replicate 513 0) State.reset = .refused (.lowImageTooLong 513) :=
  ⟨by decide, by simp only [placeLow, List.length_replicate]; rfl⟩

/-- U3, the alternative: under `clip` a pixel past the edge has no cell. -/
theorem test_clip : pixelCell .clip 64 0 = none ∧ pixelCell .clip 63 31 = some 2047 := by decide

/-- Self-modifying code (P7): the word just stored is the one fetched. -/
theorem test_fetch_after_store :
    (match exec (.stRegs 1) ((State.reset.setI 0x202).setReg 0 0x12) with
      | .next t => (match t.fetchWord with
        | .ok w => w == 0x1200
        | .error _ => false)
      | .fault _ => false
      | .refused _ => false) = true := by decide

/-! ## Witnesses: for each statement with hypotheses, a state and operands that meet them -/

/-- A small running state with the word `w` at 0x200. -/
def at200 (w : Nat) : State := State.reset.withFetchWord 16 w

/-- A halted state. -/
def stopped : State := State.reset.raise .fetch 0 0x1000

theorem witness_EncodeOfDecode : decode 0x8AB6 = .op (.shr 10 11) := by decide

theorem witness_StepRunsDecodedInstruction :
    (at200 0x6A3C).CycleDue ∧ (at200 0x6A3C).HasWord 0x6A3C ∧
      decode 0x6A3C = .op (.ldImm 10 0x3C) := by decide

/-- `s` with a Cycle listed before a Tick. -/
def listed (s : State) : State := { s with events := [.cycle, .tick] }

/-- ... and with a Cycle listed first. -/
theorem witness_StepRunsDecodedInstruction_listed :
    (listed (at200 0x6A3C)).status = .running ∧ (listed (at200 0x6A3C)).HasWord 0x6A3C ∧
      (listed (at200 0x6A3C)).events = Event.cycle :: [.tick] := by decide

/-- A listed Cycle runs the instruction and leaves the Tick for the next step (R51). -/
theorem test_listed_cycle :
    (match step (listed (at200 0x6A3C)) with
      | .next t => t.reg 10 == 0x3C && t.pc == 0x202 && t.events == [.tick] && t.dt == 0
      | .fault _ => false
      | .refused _ => false) = true := by decide

/-- ... and at the last address a word fits. -/
theorem witness_StepRunsDecodedInstruction_top :
    let s := State.withFetchWord { State.reset with pc := 0xFFE } 16 0x1200
    s.CycleDue ∧ s.HasWord 0x1200 ∧ s.pc = 0xFFE ∧ decode 0x1200 = .op (.jp 0x200) := by decide

theorem witness_InvalidWordHalts :
    (at200 0x0000).CycleDue ∧ (at200 0x0000).HasWord 0x0000 ∧ ∀ i, decode 0x0000 ≠ .op i :=
  ⟨by decide, by decide, fun i h => by
    rw [show decode 0x0000 = .invalid 0x0000 by decide] at h; cases h⟩

theorem witness_InvalidWordHalts_listed :
    (listed (at200 0x0000)).status = .running ∧ (listed (at200 0x0000)).HasWord 0x0000 ∧
      (listed (at200 0x0000)).events = Event.cycle :: [.tick] := by decide

theorem witness_FetchOutOfRangeHalts :
    (State.CycleDue { State.reset with pc := 0xFFF } ∧ (0xFFF : Word).toNat > 0xFFE) ∧
    (State.CycleDue { State.reset with pc := 0x1000 } ∧ (0x1000 : Word).toNat > 0xFFF) := by decide

theorem witness_FetchOutOfRangeHalts_listed :
    let s := listed { State.reset with pc := 0xFFF }
    s.status = .running ∧ s.pc.toNat > 0xFFE ∧ s.events = Event.cycle :: [.tick] := by decide

theorem witness_HaltedIsAbsorbing :
    stopped.status = .halted ∧ stopped.events = [] ∧
    State.events { stopped with events := [.tick, .cycle] } = Event.tick :: [.cycle] ∧
      Event.tick ≠ .reset := by decide

theorem witness_HaltedStaysForAnyNumberOfCycles :
    stopped.status = .halted ∧ stopped.events = [] := by decide

theorem witness_ResetFromAnyState :
    State.events { stopped with events := [.reset] } = Event.reset :: [] := by decide

theorem witness_TickStepsBothTimers :
    (State.events { State.reset with events := [.tick] } = Event.tick :: [] ∧
      State.reset.status = .running) ∧
    (State.events { stopped with events := [.tick] } = Event.tick :: [] ∧
      stopped.status = .halted) := by decide

theorem witness_ToneOnTheLastTick :
    State.status { State.reset with st := 1 } = .running ∧
      (State.ticks { State.reset with st := 1 } 1).lastTone = true := by decide

theorem witness_TimersStopAtZero : State.reset.status = .running := rfl

theorem witness_SetKeyWritesOneKey :
    (State.events { State.reset with events := [.setKey 15 true] } = Event.setKey 15 true :: [] ∧
      (15 : Nat) < 16) ∧
    (State.events { State.reset with events := [.setKey 16 true] } = Event.setKey 16 true :: [] ∧
      (16 : Nat) > 15) ∧ State.reset.status = .running := by decide

theorem witness_LoadRomCopiesBytes :
    (List.replicate 3584 (0x12 : Byte)).length ≤ 3584 ∧
    (List.replicate 3585 (0x12 : Byte)).length > 3584 ∧ State.reset.status = .running :=
  ⟨by rw [List.length_replicate], by rw [List.length_replicate]; decide, rfl⟩

theorem witness_SkipOnRegister : (1 : Nibble) ≠ 0 := by decide

theorem witness_SkipOnKey :
    ((State.reset.setReg 0 15).reg 0).toNat < 16 ∧
    ((State.reset.setReg 0 16).reg 0).toNat > 15 := by decide

/-- The clauses on `x ≠ 15`, `z ≠ x`, `z ≠ 15` of the ALU statements. -/
theorem witness_AddSetsCarry : (14 : Nibble) ≠ 15 ∧ (0 : Nibble) ≠ 14 ∧ (0 : Nibble) ≠ 15 := by
  decide

theorem witness_JumpToSelfChangesNothing :
    (at200 0x1200).CycleDue ∧ (at200 0x1200).HasWord (0x1#4 ++ 0x200#12) ∧
      (at200 0x1200).pc.toNat = (0x200#12).toNat := by decide

theorem witness_CallPushesReturnAddress :
    (State.sp { State.reset with sp := 15 }).val < 16 ∧
    (State.sp { State.reset with sp := 16 }).val = 16 := by decide

theorem witness_ReturnPopsStack :
    0 < (State.sp { State.reset with sp := 1 }).val ∧ State.reset.sp.val = 0 := by decide

theorem witness_CallThenReturnComesBack : (State.sp { State.reset with sp := 15 }).val < 16 := by
  decide

theorem witness_DrawFlipsCoveredCells :
    ((State.reset.setI 0xFFF).i.toNat + (1 : Nibble).toNat ≤ 0x1000) ∧
    ((0 : Nibble) = 0 ∧ (State.reset.setI 0xFFFF).i.toNat > 0x1000) := by decide

/-- A sprite with a set bit over a clear region. -/
theorem witness_DrawTwiceRestores :
    (0 : Nibble) ≠ 15 ∧ (1 : Nibble) ≠ 15 ∧
    (withBytes 0x300 [0x80] (State.reset.setI 0x300)).i.toNat + (1 : Nibble).toNat ≤ 0x1000 ∧
    (∀ d, (withBytes 0x300 [0x80] (State.reset.setI 0x300)).SpriteCovers 0 1 1 d →
      (withBytes 0x300 [0x80] (State.reset.setI 0x300)).fb.cell d = false) ∧
    ∃ d, (withBytes 0x300 [0x80] (State.reset.setI 0x300)).SpriteCovers 0 1 1 d :=
  ⟨by decide, by decide, by decide,
    fun d _ => by simp [withBytes, State.reset, Framebuffer.cell],
    ⟨0, 0, 0, by decide, by decide, by decide, by decide⟩⟩

theorem witness_DrawOutOfRangeHalts :
    (2 : Nibble) ≠ 0 ∧ (State.reset.setI 0xFFF).i.toNat + (2 : Nibble).toNat - 1 > 0xFFF := by
  decide

theorem witness_KeyWait :
    (∀ k (hk : k < 16), State.reset.keys[k] = false) ∧
    ((withKey 3 State.reset).keys[3] = true ∧
      ∀ j (hj : j < 3), (withKey 3 State.reset).keys[j] = false) := by decide

theorem witness_StoreBcdDigits :
    (State.reset.setI 0xFFD).i.toNat + 2 ≤ 0xFFF ∧ (State.reset.setI 0xFFE).i.toNat + 2 > 0xFFF := by
  decide

theorem witness_StoreRegisters :
    (State.reset.setI 0xFF0).i.toNat + (15 : Nibble).toNat ≤ 0xFFF ∧
    (State.reset.setI 0xFF1).i.toNat + (15 : Nibble).toNat > 0xFFF := by decide

theorem witness_LoadRegisters :
    (State.reset.setI 0xFFF).i.toNat + (0 : Nibble).toNat ≤ 0xFFF ∧
    (State.reset.setI 0xFFF).i.toNat + (1 : Nibble).toNat > 0xFFF ∧
    (0 : Nibble).toNat < (1 : Nibble).toNat := by decide

theorem witness_StoredWordIsExecutedNext :
    let s := ((at200 0xF155).setI 0x202).setReg 0 0x12
    s.CycleDue ∧ (0 : Nibble).toNat < (1 : Nibble).toNat ∧
    s.i.toNat + (1 : Nibble).toNat ≤ 0xFFF ∧ s.pc.toNat + 2 = s.i.toNat + (0 : Nibble).toNat ∧
    s.HasWord (0xF#4 ++ 1#4 ++ 0x55#8) ∧
    decode (s.reg 0 ++ s.reg (0 + 1)) = .op (.jp 0x200) := by decide

theorem witness_OnlyListedInstructionsWriteRegisters :
    (∃ t, exec (.addReg 1 2) State.reset = .next t) ∧
    (Instr.addReg 1 2).writesReg 3 = false := ⟨⟨_, rfl⟩, by decide⟩

theorem witness_OnlyListedInstructionsWriteSpecialState :
    ∃ t, exec (.ldI 0x300) State.reset = .next t ∧ t.i ≠ State.reset.i := ⟨_, rfl, by decide⟩

theorem witness_OnlyStoredBytesChange :
    (∃ t, exec (.ldB 0) (State.reset.setI 0x300) = .next t) ∧
    (State.reset.setI 0x300).i.toNat + (Instr.ldB 0).storedBytes ≤ 0x303 ∧
    0x2FF < (State.reset.setI 0x300).i.toNat := ⟨⟨_, rfl⟩, by decide, by decide⟩

theorem witness_FaultDiscardsEveryChange :
    ∃ t, State.reset.status = .running ∧ exec .ret State.reset = .next t ∧
      t.status = .halted := ⟨_, rfl, rfl, rfl⟩

theorem witness_FaultConditionsAreListed :
    ∃ t, State.reset.status = .running ∧ State.reset.fault = none ∧
      exec .ret State.reset = .next t ∧ State.reset.faultOf .ret = some .underflow :=
  ⟨_, rfl, rfl, rfl, rfl⟩

theorem witness_OnlyRndReadsTheRandomByte :
    (∀ x kk, Instr.cls ≠ .rnd x kk) ∧ ∃ t, exec .cls State.reset = .next t :=
  ⟨nofun, ⟨_, rfl⟩⟩

theorem witness_NoInstructionReadsSoundTimer :
    (∃ t, exec .cls State.reset = .next t) ∧ (∀ x, Instr.cls ≠ .ldStVx x) ∧
    ∃ t, exec (.ldStVx 1) State.reset = .next t := ⟨⟨_, rfl⟩, nofun, ⟨_, rfl⟩⟩

theorem witness_StepKeepsInvariants :
    State.Inv (at200 0x2300) ∧
      step (at200 0x2300) = exec (.call 0x300) (at200 0x2300) ∧
      ∃ t, exec (.call 0x300) (at200 0x2300) = .next t := ⟨by decide, rfl, ⟨_, rfl⟩⟩

end Sys2Proof.Tests
end

section
/-!
SUPPORT. The skips on an immediate (41_skips R54, R55): the default advance followed by a skip is
one write of `pc`, and the two decoder arms read their operands back from the word.
-/
namespace Sys2Proof

theorem decode_seImm (x : Nibble) (kk : Byte) : decode (0x3#4 ++ x ++ kk) = .op (.seImm x kk) := by
  simp [decode, fieldN3_xkk, fieldX_xkk, fieldKk_xkk]

theorem decode_sneImm (x : Nibble) (kk : Byte) : decode (0x4#4 ++ x ++ kk) = .op (.sneImm x kk) := by
  simp [decode, fieldN3_xkk, fieldX_xkk, fieldKk_xkk]

namespace Machine

theorem exec_seImm (x : Nibble) (kk : Byte) (s : State) :
    exec (.seImm x kk) s = .next (s.advance.skipIf (s.reg x == kk)) := rfl

theorem exec_sneImm (x : Nibble) (kk : Byte) (s : State) :
    exec (.sneImm x kk) s = .next (s.advance.skipIf (s.reg x != kk)) := rfl

/-- R45 and R53 together: a skip moves `pc` by 4 in all, no skip by 2, and no other field moves. -/
theorem State.advance_skipIf (s : State) (c : Bool) :
    s.advance.skipIf c = { s with pc := if c then s.pc + 4 else s.pc + 2 } := by
  cases c with
  | false => rfl
  | true => simp [State.skipIf, State.advance, BitVec.add_assoc]

/-- The skip on equal bytes, with the comparison on their values. -/
theorem State.advance_skipIf_beq (s : State) (a b : Byte) :
    s.advance.skipIf (a == b)
      = { s with pc := if a.toNat = b.toNat then s.pc + 4 else s.pc + 2 } := by
  simp only [State.advance_skipIf, beq_iff_eq, BitVec.toNat_inj]

/-- The skip on unequal bytes: the two targets of `State.advance_skipIf_beq` change places. -/
theorem State.advance_skipIf_bne (s : State) (a b : Byte) :
    s.advance.skipIf (a != b)
      = { s with pc := if a.toNat = b.toNat then s.pc + 2 else s.pc + 4 } := by
  simp only [State.advance_skipIf, bne_iff_ne, ite_not, ne_eq, BitVec.toNat_inj]

end Machine

/-- Settles O18: each word decodes by its own arm, and each effect is the default advance followed
by a skip on equality or on inequality. -/
theorem skipOnImmediate : Obligations.SkipOnImmediate := by
  intro x kk
  refine ⟨decode_seImm x kk, decode_sneImm x kk, fun s => ⟨?_, ?_⟩⟩
  · rw [Machine.exec_seImm, Machine.State.advance_skipIf_beq]
  · rw [Machine.exec_sneImm, Machine.State.advance_skipIf_bne]

end Sys2Proof
end

section
/-!
SUPPORT. Load immediate and copy (42_alu R62, R64): the default advance followed by one register
write, with its frame, and the two decoder arms.
-/
namespace Sys2Proof

theorem decode_ldImm (x : Nibble) (kk : Byte) : decode (0x6#4 ++ x ++ kk) = .op (.ldImm x kk) := by
  simp [decode, fieldN3_xkk, fieldX_xkk, fieldKk_xkk]

theorem decode_ldReg (x y : Nibble) :
    decode (0x8#4 ++ x ++ y ++ 0x0#4) = .op (.ldReg x y) := by
  simp [decode, fieldN3_xyn, fieldX_xyn, fieldY_xyn, fieldN_xyn]

namespace Machine

theorem exec_ldImm (x : Nibble) (kk : Byte) (s : State) :
    exec (.ldImm x kk) s = .next (s.advance.setReg x kk) := rfl

theorem exec_ldReg (x y : Nibble) (s : State) :
    exec (.ldReg x y) s = .next (s.advance.setReg x (s.reg y)) := rfl

/-- R60 without a flag: the destination holds the result, and nothing else but `pc` moves. It holds
for every `x`, 15 included: `VF` is then simply the destination. -/
theorem State.advance_setReg_frame (s : State) (x : Nibble) (b : Byte) :
    (s.advance.setReg x b).reg x = b ∧
    (∀ z, z ≠ x → (s.advance.setReg x b).reg z = s.reg z) ∧
    s.advance.setReg x b = { s with pc := s.pc + 2, v := (s.advance.setReg x b).v } := by
  refine ⟨?_, fun z hz => ?_, rfl⟩
  · rw [State.setReg_reg, if_pos rfl]
  · rw [State.setReg_reg, if_neg hz.symm, State.advance_reg]

end Machine

/-- Settles O21: each word decodes by its own arm, and each effect is the default advance followed
by one write of `V[x]`. -/
theorem loadImmediateAndCopy : Obligations.LoadImmediateAndCopy := by
  refine ⟨fun x kk => ⟨decode_ldImm x kk, fun s => ?_⟩,
    fun x y => ⟨decode_ldReg x y, fun s => ?_⟩⟩
  · exact ⟨_, Machine.exec_ldImm x kk s, s.advance_setReg_frame x kk⟩
  · exact ⟨_, Machine.exec_ldReg x y s, s.advance_setReg_frame x (s.reg y)⟩

end Sys2Proof
end

section
/-!
SUPPORT. The jump (43_control_flow R73): its decoder arm reads the address back from the word, and
zero extension to 16 bits keeps the value of every 12-bit address.
-/
namespace Sys2Proof

theorem decode_jp (nnn : Addr12) : decode (0x1#4 ++ nnn) = .op (.jp nnn) := by
  simp [decode, fieldN3_nnn, fieldNnn_nnn]

namespace Machine

theorem exec_jp (nnn : Addr12) (s : State) : exec (.jp nnn) s = .next (s.jump (addrOf nnn)) := rfl

theorem addrOf_toNat (nnn : Addr12) : (addrOf nnn).toNat = nnn.toNat :=
  BitVec.toNat_setWidth_of_le (by decide)

theorem State.jump_frame (s : State) (a : Word) : s.jump a = { s with pc := (s.jump a).pc } := rfl

end Machine

/-- Settles O27: the word decodes by its own arm, and the effect is one write of `pc`, whose value
is that of the literal address, odd or even. -/
theorem jumpIsLiteral : Obligations.JumpIsLiteral := by
  refine fun nnn => ⟨decode_jp nnn, fun s => ⟨_, Machine.exec_jp nnn s, ?_, s.jump_frame _⟩⟩
  rw [Machine.State.jump_pc, Machine.addrOf_toNat]

end Sys2Proof
end

section
/-!
SUPPORT. Clear-screen (44_graphics R80): the default advance followed by one write of the
framebuffer, with its frame.
-/
namespace Sys2Proof

theorem decode_cls : decode 0x00E0 = .op .cls := by decide

namespace Machine

theorem exec_cls (s : State) : exec .cls s = .next (s.advance.setFb blankScreen) := rfl

theorem State.advance_setFb_frame (s : State) (f : Framebuffer) :
    s.advance.setFb f = { s with pc := s.pc + 2, fb := (s.advance.setFb f).fb } := rfl

end Machine

/-- Settles O33: the word decodes, and the effect is the default advance followed by one write of
the framebuffer, whose new value has every cell off. -/
theorem clearScreen : Obligations.ClearScreen := by
  refine ⟨decode_cls, fun s => ⟨_, Machine.exec_cls s, fun c => ?_, s.advance_setFb_frame _⟩⟩
  rw [Machine.State.setFb_fb, Machine.cell_blankScreen]

end Sys2Proof
end

section
/-!
SUPPORT. Load index (46_index_memory R87): the default advance followed by one write of `I`, with
its frame, and the decoder arm.
-/
namespace Sys2Proof

theorem decode_ldI (nnn : Addr12) : decode (0xA#4 ++ nnn) = .op (.ldI nnn) := by
  simp [decode, fieldN3_nnn, fieldNnn_nnn]

namespace Machine

theorem exec_ldI (nnn : Addr12) (s : State) :
    exec (.ldI nnn) s = .next (s.advance.setI (addrOf nnn)) := rfl

theorem State.advance_setI_frame (s : State) (a : Word) :
    s.advance.setI a = { s with pc := s.pc + 2, i := (s.advance.setI a).i } := rfl

end Machine

/-- Settles O40: the word decodes by its own arm, and the effect is the default advance followed by
one write of `I`, whose value is that of the 12-bit address. -/
theorem loadIndex : Obligations.LoadIndex := by
  refine fun nnn =>
    ⟨decode_ldI nnn, fun s => ⟨_, Machine.exec_ldI nnn s, ?_, s.advance_setI_frame _⟩⟩
  rw [Machine.State.setI_i, Machine.addrOf_toNat]

end Sys2Proof
end

section
/-!
SUPPORT. The decoder against the encoder, the opcode map and the table of invalid words (30_encoding
R36, R38, R39). A word is its own fields put together (R33), so it is determined by the fields its
row fixes and the operands the decoder reads from it.
-/
namespace Sys2Proof

/-! ## A word from its fields -/

theorem word_nnn (w : Word) : fieldN3 w ++ fieldNnn w = w := by
  show BitVec.extractLsb' 12 4 w ++ BitVec.extractLsb' 0 12 w = w
  rw [BitVec.extractLsb'_append_extractLsb'_eq_extractLsb' (by decide)]
  exact BitVec.extractLsb'_eq_self

theorem word_xkk (w : Word) : fieldN3 w ++ fieldX w ++ fieldKk w = w := by
  show BitVec.extractLsb' 12 4 w ++ BitVec.extractLsb' 8 4 w ++ BitVec.extractLsb' 0 8 w = w
  rw [BitVec.extractLsb'_append_extractLsb'_eq_extractLsb' (by decide)]
  exact wordOfBytes_bytes w

theorem word_xyn (w : Word) : fieldN3 w ++ fieldX w ++ fieldY w ++ fieldN w = w := by
  show BitVec.extractLsb' 12 4 w ++ BitVec.extractLsb' 8 4 w ++ BitVec.extractLsb' 4 4 w
    ++ BitVec.extractLsb' 0 4 w = w
  rw [BitVec.extractLsb'_append_extractLsb'_eq_extractLsb' (by decide),
    BitVec.extractLsb'_append_extractLsb'_eq_extractLsb' (by decide),
    BitVec.extractLsb'_append_extractLsb'_eq_extractLsb' (by decide)]
  exact BitVec.extractLsb'_eq_self

section
variable {w : Word} {a : Nibble} (ha : (fieldN3 w).toNat = a.toNat)
include ha

theorem word_of_n3_nnn : a ++ fieldNnn w = w := by
  rw [← BitVec.eq_of_toNat_eq ha]; exact word_nnn w

theorem word_of_n3_xkk : a ++ fieldX w ++ fieldKk w = w := by
  rw [← BitVec.eq_of_toNat_eq ha]; exact word_xkk w

theorem word_of_n3_xyn : a ++ fieldX w ++ fieldY w ++ fieldN w = w := by
  rw [← BitVec.eq_of_toNat_eq ha]; exact word_xyn w

theorem word_of_n3_kk {kk : Byte} (hk : (fieldKk w).toNat = kk.toNat) :
    a ++ fieldX w ++ kk = w := by
  rw [← BitVec.eq_of_toNat_eq hk]; exact word_of_n3_xkk ha

theorem word_of_n3_n {n : Nibble} (hn : (fieldN w).toNat = n.toNat) :
    a ++ fieldX w ++ fieldY w ++ n = w := by
  rw [← BitVec.eq_of_toNat_eq hn]; exact word_of_n3_xyn ha

end

/-! ## Decoding and encoding -/

theorem decode_encode (i : Instr) : decode (encode i) = .op i := by
  cases i with
  | cls | ret => decide
  | jp | call | ldI | jpV0 => simp [encode, decode, fieldN3_nnn, fieldNnn_nnn]
  | seImm | sneImm | ldImm | addImm | rnd | skp | sknp | ldVxDt | ldVxK | ldDtVx | ldStVx | addI
  | ldF | ldB | stRegs | ldRegs => simp [encode, decode, fieldN3_xkk, fieldX_xkk, fieldKk_xkk]
  | seReg | sneReg | ldReg | or | and | xor | addReg | sub | shr | subn | shl | drw =>
    simp [encode, decode, fieldN3_xyn, fieldX_xyn, fieldY_xyn, fieldN_xyn]

/-- One case per primary opcode: the arm's fixed fields and the operands it reads are the word's. -/
theorem encode_of_decode {w : Word} {i : Instr} (h : decode w = .op i) : encode i = w := by
  simp only [decode] at h
  split at h
  · split_ifs at h with h0 h1 <;> cases h
    exacts [h0.symm, h1.symm]
  · cases h; exact word_of_n3_nnn ‹_›
  · cases h; exact word_of_n3_nnn ‹_›
  · cases h; exact word_of_n3_xkk ‹_›
  · cases h; exact word_of_n3_xkk ‹_›
  · split_ifs at h with hn; cases h; exact word_of_n3_n ‹_› (congrArg _ hn)
  · cases h; exact word_of_n3_xkk ‹_›
  · cases h; exact word_of_n3_xkk ‹_›
  · split at h <;> cases h <;> exact word_of_n3_n ‹_› ‹_›
  · split_ifs at h with hn; cases h; exact word_of_n3_n ‹_› (congrArg _ hn)
  · cases h; exact word_of_n3_nnn ‹_›
  · cases h; exact word_of_n3_nnn ‹_›
  · cases h; exact word_of_n3_xkk ‹_›
  · cases h; exact word_of_n3_xyn ‹_›
  · split_ifs at h with h0 h1 <;> cases h
    exacts [word_of_n3_kk ‹_› (congrArg _ h0), word_of_n3_kk ‹_› (congrArg _ h1)]
  · have hf : (fieldN3 w).toNat = 0xF := by
      have := (fieldN3 w).isLt
      simp only [imp_false] at *
      omega
    split at h <;> cases h <;> exact word_of_n3_kk hf ‹_›

theorem decode_op_or_invalid (w : Word) : (∃ i, decode w = .op i) ∨ decode w = .invalid w := by
  simp only [decode]
  repeat' split
  all_goals simp

/-! ## Rows of the opcode map -/

theorem n3_of_mask_nnn {w : Word} {a : Nibble} (h : w &&& 0xF000 = a ++ 0#12) :
    (fieldN3 w).toNat = a.toNat := by
  rw [← fieldN3_nnn a 0#12, ← h, ← word_nnn w, mask_nnn, fieldN3_nnn, fieldN3_nnn]

theorem word_of_mask_x {w : Word} {a : Nibble} {kk : Byte} (h : w &&& 0xF0FF = a ++ 0#4 ++ kk) :
    a ++ fieldX w ++ kk = w := by
  rw [← word_xkk w, mask_x] at h
  have ha := congrArg fieldN3 h
  have hk := congrArg fieldKk h
  rw [fieldN3_xkk, fieldN3_xkk] at ha
  rw [fieldKk_xkk, fieldKk_xkk] at hk
  exact word_of_n3_kk (congrArg _ ha) (congrArg _ hk)

theorem word_of_mask_xy {w : Word} {a n : Nibble} (h : w &&& 0xF00F = a ++ 0#4 ++ 0#4 ++ n) :
    a ++ fieldX w ++ fieldY w ++ n = w := by
  rw [← word_xyn w, mask_xy] at h
  have ha := congrArg fieldN3 h
  have hn := congrArg fieldN h
  rw [fieldN3_xyn, fieldN3_xyn] at ha
  rw [fieldN_xyn, fieldN_xyn] at hn
  exact word_of_n3_n (congrArg _ ha) (congrArg _ hn)

/-- A word the row of an instruction admits is the word of an instruction of that row: the one with
the word's own fields for operands. -/
theorem exists_encode_of_admits (i : Instr) {w : Word} (h : i.row.admits w = true) :
    ∃ j : Instr, encode j = w ∧ j.row = i.row := by
  have h := beq_iff_eq.1 h
  cases i with
  | cls => exact ⟨.cls, h.symm.trans BitVec.and_allOnes, rfl⟩
  | ret => exact ⟨.ret, h.symm.trans BitVec.and_allOnes, rfl⟩
  | jp => exact ⟨.jp (fieldNnn w), word_of_n3_nnn (n3_of_mask_nnn h), rfl⟩
  | call => exact ⟨.call (fieldNnn w), word_of_n3_nnn (n3_of_mask_nnn h), rfl⟩
  | ldI => exact ⟨.ldI (fieldNnn w), word_of_n3_nnn (n3_of_mask_nnn h), rfl⟩
  | jpV0 => exact ⟨.jpV0 (fieldNnn w), word_of_n3_nnn (n3_of_mask_nnn h), rfl⟩
  | seImm => exact ⟨.seImm (fieldX w) (fieldKk w), word_of_n3_xkk (n3_of_mask_nnn h), rfl⟩
  | sneImm => exact ⟨.sneImm (fieldX w) (fieldKk w), word_of_n3_xkk (n3_of_mask_nnn h), rfl⟩
  | ldImm => exact ⟨.ldImm (fieldX w) (fieldKk w), word_of_n3_xkk (n3_of_mask_nnn h), rfl⟩
  | addImm => exact ⟨.addImm (fieldX w) (fieldKk w), word_of_n3_xkk (n3_of_mask_nnn h), rfl⟩
  | rnd => exact ⟨.rnd (fieldX w) (fieldKk w), word_of_n3_xkk (n3_of_mask_nnn h), rfl⟩
  | drw => exact ⟨.drw (fieldX w) (fieldY w) (fieldN w), word_of_n3_xyn (n3_of_mask_nnn h), rfl⟩
  | seReg => exact ⟨.seReg (fieldX w) (fieldY w), word_of_mask_xy h, rfl⟩
  | sneReg => exact ⟨.sneReg (fieldX w) (fieldY w), word_of_mask_xy h, rfl⟩
  | ldReg => exact ⟨.ldReg (fieldX w) (fieldY w), word_of_mask_xy h, rfl⟩
  | or => exact ⟨.or (fieldX w) (fieldY w), word_of_mask_xy h, rfl⟩
  | and => exact ⟨.and (fieldX w) (fieldY w), word_of_mask_xy h, rfl⟩
  | xor => exact ⟨.xor (fieldX w) (fieldY w), word_of_mask_xy h, rfl⟩
  | addReg => exact ⟨.addReg (fieldX w) (fieldY w), word_of_mask_xy h, rfl⟩
  | sub => exact ⟨.sub (fieldX w) (fieldY w), word_of_mask_xy h, rfl⟩
  | shr => exact ⟨.shr (fieldX w) (fieldY w), word_of_mask_xy h, rfl⟩
  | subn => exact ⟨.subn (fieldX w) (fieldY w), word_of_mask_xy h, rfl⟩
  | shl => exact ⟨.shl (fieldX w) (fieldY w), word_of_mask_xy h, rfl⟩
  | skp => exact ⟨.skp (fieldX w), word_of_mask_x h, rfl⟩
  | sknp => exact ⟨.sknp (fieldX w), word_of_mask_x h, rfl⟩
  | ldVxDt => exact ⟨.ldVxDt (fieldX w), word_of_mask_x h, rfl⟩
  | ldVxK => exact ⟨.ldVxK (fieldX w), word_of_mask_x h, rfl⟩
  | ldDtVx => exact ⟨.ldDtVx (fieldX w), word_of_mask_x h, rfl⟩
  | ldStVx => exact ⟨.ldStVx (fieldX w), word_of_mask_x h, rfl⟩
  | addI => exact ⟨.addI (fieldX w), word_of_mask_x h, rfl⟩
  | ldF => exact ⟨.ldF (fieldX w), word_of_mask_x h, rfl⟩
  | ldB => exact ⟨.ldB (fieldX w), word_of_mask_x h, rfl⟩
  | stRegs => exact ⟨.stRegs (fieldX w), word_of_mask_x h, rfl⟩
  | ldRegs => exact ⟨.ldRegs (fieldX w), word_of_mask_x h, rfl⟩

/-! ## The decoder and the rows -/

/-- Every instruction's word is one its own row admits, and that row is in the map. -/
theorem encode_in_row (i : Instr) : Laws.InRow.Statement i := by
  open Laws.InRow in
  cases i
  exacts [cls, ret, jp _, call _, seImm _ _, sneImm _ _, seReg _ _, ldImm _ _, addImm _ _,
    ldReg _ _, or _ _, and _ _, xor _ _, addReg _ _, sub _ _, shr _ _, subn _ _, shl _ _,
    sneReg _ _, ldI _, jpV0 _, rnd _ _, drw _ _ _, skp _, sknp _, ldVxDt _, ldVxK _, ldDtVx _,
    ldStVx _, addI _, ldF _, ldB _, stRegs _, ldRegs _]

theorem admits_of_decode {w : Word} {i : Instr} (h : decode w = .op i) :
    i.row ∈ opcodeMap ∧ i.row.admits w = true := by
  rw [← encode_of_decode h]; exact encode_in_row i

theorem exists_decode_of_admits {r : Row} (hr : r ∈ opcodeMap) {w : Word}
    (h : r.admits w = true) : ∃ i, decode w = .op i ∧ i.row = r := by
  obtain ⟨i, -, rfl⟩ := List.mem_map.1 hr
  obtain ⟨j, rfl, hj⟩ := exists_encode_of_admits i h
  exact ⟨j, decode_encode j, hj⟩

/-! ## The fields as numbers -/

theorem fieldN3_toNat (w : Word) : (fieldN3 w).toNat = w.toNat / 0x1000 := by
  simp only [fieldN3, BitVec.extractLsb'_toNat, Nat.shiftRight_eq_div_pow]
  omega

theorem fieldN_toNat (w : Word) : (fieldN w).toNat = w.toNat % 0x10 :=
  BitVec.extractLsb'_toNat ..

theorem fieldKk_toNat (w : Word) : (fieldKk w).toNat = w.toNat % 0x100 :=
  BitVec.extractLsb'_toNat ..

/-! ## The statements -/

/-- Settles O1: the arm the fixed fields select reads each operand back from its own field. -/
theorem decodeOfEncode : Obligations.DecodeOfEncode := decode_encode

/-- Settles O2: the arm's fixed fields and its operands are all the fields of the word. -/
theorem encodeOfDecode : Obligations.EncodeOfDecode := fun _ _ => encode_of_decode

/-- Settles O3: a word a row admits is the word of an instruction of that row, and a word that
decodes to an instruction is admitted by that instruction's row. -/
theorem decodeMatchesOpcodeMap : Obligations.DecodeMatchesOpcodeMap := by
  refine fun w => ⟨fun r hr => ⟨exists_decode_of_admits hr, ?_⟩, fun hw r hr => ?_, fun hw => ?_⟩
  · rintro ⟨i, hi, rfl⟩
    exact (admits_of_decode hi).2
  · refine Bool.eq_false_iff.2 fun h => ?_
    obtain ⟨i, hi, -⟩ := exists_decode_of_admits hr h
    cases hw.symm.trans hi
  · refine (decode_op_or_invalid w).resolve_left fun ⟨i, hi⟩ => ?_
    obtain ⟨hmem, hadm⟩ := admits_of_decode hi
    exact absurd hadm (by simp [hw _ hmem])

/-- Settles O4, one case per primary opcode: the arms of opcodes 1 to 4, 6, 7 and A to D never
answer INVALID, and each other arm does under its own condition of the table. -/
theorem invalidWordsAreListed : Obligations.InvalidWordsAreListed := by
  intro w
  have hq : w.toNat / 0x1000 < 16 := by omega
  have hn : w.toNat % 0x10 < 16 := by omega
  simp only [decode, ← BitVec.toNat_inj, fieldN3_toNat, fieldN_toNat, fieldKk_toNat]
  generalize w.toNat / 0x1000 = q at hq
  generalize w.toNat % 0x10 = n at hn
  interval_cases q
  · simp only; split_ifs <;> simp_all
  · simp
  · simp
  · simp
  · simp
  · simp
  · simp
  · simp
  · interval_cases n <;> simp
  · simp
  · simp
  · simp
  · simp
  · simp
  · simp only; split_ifs <;> simp_all
  · simp only; split <;> simp_all

/-- Settles O5: thirteen words, each decoded by evaluation. -/
theorem sampleWordsDecode : Obligations.SampleWordsDecode := by
  unfold Obligations.SampleWordsDecode
  decide

end Sys2Proof
end

section
/-!
SUPPORT. The instructions with two outcomes, one rule for each: the eight that can fault
(60_exceptions R93), completed or halted, and the key wait (45_random_keypad_timers R84).
-/
namespace Sys2Proof.Machine

/-! ## Runs of bytes in memory (R24) -/

/-- The bytes of memory from `base` on, lowest address first. -/
def State.bytesAt (s : State) (base k : Nat) : List Byte :=
  (List.range' base k).map fun a => s.mem.read a

@[simp] theorem State.bytesAt_length (s : State) (base k : Nat) :
    (s.bytesAt base k).length = k := by simp [State.bytesAt]

theorem State.bytesAt_getElem? (s : State) (base k j : Nat) :
    (s.bytesAt base k)[j]? = if j < k then some (s.mem.read (base + j)) else none := by
  by_cases h : j < k <;> simp [State.bytesAt, h]

theorem Memory.read_writeList_inside (base k : Nat) (bs : List Byte) (m : Memory)
    (h : k < bs.length) : Memory.read (base + k) (Memory.writeList base bs m) = bs[k] := by
  simp [Memory.read_writeList, h]

theorem Memory.read_writeList_outside (base a : Nat) (bs : List Byte) (m : Memory)
    (h : a < base ∨ base + bs.length ≤ a) :
    Memory.read a (Memory.writeList base bs m) = Memory.read a m := by
  rw [Memory.read_writeList]
  split
  · rw [List.getElem?_eq_none (by omega)]; rfl
  · rfl

/-! ## Rules of the instructions that can fault -/

section
variable (s : State) (x y n : Nibble) (nnn : Addr12)

theorem exec_call_ok (h : s.sp.val < 16) :
    exec (.call nnn) s = .next { s with
      pc := addrOf nnn, stack := s.stack.set s.sp.val (s.pc + 2) h
      sp := ⟨s.sp.val + 1, by omega⟩ } := by
  simp only [exec, execCall, State.push_some s _ h]
  rfl

theorem exec_call_fault (h : s.sp.val = 16) :
    exec (.call nnn) s = .next (s.raise .overflow (encode (.call nnn)) s.sp.val) := by
  simp only [exec, execCall, State.push_none s _ h]

theorem exec_ret_ok (h : 0 < s.sp.val) :
    exec .ret s = .next { s with
      pc := s.stack[s.sp.val - 1]'(by omega), sp := ⟨s.sp.val - 1, by omega⟩ } := by
  simp only [exec, execRet, State.pop_some s h]
  rfl

theorem exec_ret_fault (h : s.sp.val = 0) :
    exec .ret s = .next (s.raise .underflow (encode .ret) s.sp.val) := by
  simp only [exec, execRet, State.pop_none s h]

theorem exec_skp_ok (h : (s.reg x).toNat < 16) :
    exec (.skp x) s = .next (s.advance.skipIf s.keys[(s.reg x).toNat]) := by
  simp only [exec, execSkp, State.keyState_some s _ h]

theorem exec_skp_fault (h : 15 < (s.reg x).toNat) :
    exec (.skp x) s = .next (s.raise .key (encode (.skp x)) (s.reg x).toNat) := by
  simp only [exec, execSkp, State.keyState_none s _ h]

theorem exec_sknp_ok (h : (s.reg x).toNat < 16) :
    exec (.sknp x) s = .next (s.advance.skipIf (!s.keys[(s.reg x).toNat])) := by
  simp only [exec, execSknp, State.keyState_some s _ h]

theorem exec_sknp_fault (h : 15 < (s.reg x).toNat) :
    exec (.sknp x) s = .next (s.raise .key (encode (.sknp x)) (s.reg x).toNat) := by
  simp only [exec, execSknp, State.keyState_none s _ h]

theorem exec_ldB_ok (h : s.i.toNat + 2 ≤ 0xFFF) :
    exec (.ldB x) s = .next { s with
      pc := s.pc + 2, mem := s.mem.writeList s.i.toNat (bcdDigits (s.reg x)) } := by
  simp only [exec, execLdB, State.indexBase]
  rw [State.writeBytes_ok _ _ _ (by simp [bcdDigits]; omega)]
  rfl

theorem exec_ldB_fault (h : 0xFFF < s.i.toNat + 2) :
    exec (.ldB x) s = .next (s.raise .dataWrite (encode (.ldB x)) (max s.i.toNat 0x1000)) := by
  simp only [exec, execLdB, State.indexBase]
  rw [State.writeBytes_error _ _ _ (by simp [bcdDigits]) (by simp [bcdDigits]; omega)]

theorem exec_stRegs_ok (h : s.i.toNat + x.toNat ≤ 0xFFF) :
    exec (.stRegs x) s = .next { s with
      pc := s.pc + 2, mem := s.mem.writeList s.i.toNat (s.regsUpTo x) } := by
  simp only [exec, execStRegs, State.indexBase]
  rw [State.writeBytes_ok _ _ _ (by rw [State.regsUpTo_length]; omega)]
  rfl

theorem exec_stRegs_fault (h : 0xFFF < s.i.toNat + x.toNat) :
    exec (.stRegs x) s
      = .next (s.raise .dataWrite (encode (.stRegs x)) (max s.i.toNat 0x1000)) := by
  simp only [exec, execStRegs, State.indexBase]
  rw [State.writeBytes_error _ _ _ (by simp [State.regsUpTo])
    (by rw [State.regsUpTo_length]; omega)]

/-- The registers after `Fx65`: `V[0..x]` from memory at `I` on, the others as they were (R92). -/
def State.loadedRegs : Vector Byte 16 :=
  Vector.ofFn fun k => if k.val ≤ x.toNat then s.mem.read (s.i.toNat + k.val) else s.v[k]

theorem State.setRegsFrom_bytesAt :
    ((s.advance.setRegsFrom 0 (s.bytesAt s.i.toNat (x.toNat + 1)))).v = s.loadedRegs x := by
  refine Vector.ext fun k hk => ?_
  have hx := x.isLt
  have hy : (BitVec.ofNat 4 k).toNat = k := Nat.mod_eq_of_lt hk
  have h := s.advance.setRegsFrom_reg 0 (s.bytesAt s.i.toNat (x.toNat + 1)) (BitVec.ofNat 4 k)
    (by rw [s.bytesAt_length]; omega)
  simp only [State.reg, hy, Nat.zero_le, if_true, Nat.sub_zero, State.bytesAt_getElem?,
    State.advance_v] at h
  rw [h, State.loadedRegs, Vector.getElem_ofFn]
  by_cases hkx : k ≤ x.toNat
  · simp [hkx, Nat.lt_succ_of_le hkx]
  · simp [hkx, show ¬ k < x.toNat + 1 by omega]

theorem State.loadedRegs_reg :
    State.reg { s with v := s.loadedRegs x } y
      = if y.toNat ≤ x.toNat then s.mem.read (s.i.toNat + y.toNat) else s.reg y :=
  Vector.getElem_ofFn ..

theorem exec_ldRegs_ok (h : s.i.toNat + x.toNat ≤ 0xFFF) :
    exec (.ldRegs x) s = .next { s with pc := s.pc + 2, v := s.loadedRegs x } := by
  simp only [exec, execLdRegs, State.indexBase]
  rw [State.readBytes_ok _ _ _ (by omega), ← State.setRegsFrom_bytesAt]
  exact congrArg _ (State.setRegsFrom_eq ..)

theorem exec_ldRegs_fault (h : 0xFFF < s.i.toNat + x.toNat) :
    exec (.ldRegs x) s
      = .next (s.raise .dataRead (encode (.ldRegs x)) (max s.i.toNat 0x1000)) := by
  simp only [exec, execLdRegs, State.indexBase]
  rw [State.readBytes_error _ _ _ (by omega) (by omega)]

/-- The cells the sprite of `Dxyn` touches (R81). -/
def State.drawnCells : List (Fin 2048) := s.spriteAt x y (s.bytesAt s.i.toNat n.toNat)

/-- The framebuffer after the sprite of `Dxyn` is drawn, and whether it collided (R81). -/
def State.drawn : Framebuffer × Bool :=
  toggleCells s.fb false (s.drawnCells x y n)

theorem exec_drw_ok (h : n = 0 ∨ s.i.toNat + n.toNat ≤ 0x1000) :
    exec (.drw x y n) s
      = .next ((s.advance.setFb (s.drawn x y n).1).setReg vf (flagOf (s.drawn x y n).2)) := by
  have hr : s.readBytes s.i.toNat n.toNat = .ok (s.bytesAt s.i.toNat n.toNat) := by
    rcases h with rfl | h
    · rfl
    · exact State.readBytes_ok _ _ _ h
  simp only [exec, execDrw, State.indexBase, hr]
  rfl

theorem exec_drw_fault (hn : n ≠ 0) (h : 0x1000 < s.i.toNat + n.toNat) :
    exec (.drw x y n) s
      = .next (s.raise .dataRead (encode (.drw x y n)) (max s.i.toNat 0x1000)) := by
  have h0 : 0 < n.toNat := Nat.pos_of_ne_zero fun h0 => hn (BitVec.eq_of_toNat_eq h0)
  simp only [exec, execDrw, State.indexBase]
  rw [State.readBytes_error _ _ _ h0 h]

/-! ## The key wait (R84) -/

theorem exec_ldVxK_some {k : Nat} (h : s.lowestKey = some k) :
    exec (.ldVxK x) s = .next (s.advance.setReg x (BitVec.ofNat 8 k)) := by
  simp only [exec, execLdVxK, h]

theorem exec_ldVxK_none (h : s.lowestKey = none) : exec (.ldVxK x) s = .next s := by
  simp only [exec, execLdVxK, h, State.advance_rewind]

end

end Sys2Proof.Machine
end

section
/-!
SUPPORT. `exec` as a whole: the fault of 60_exceptions R93's table where its condition holds, and
otherwise a new value for each field of the state (`exec_of_fault`, `exec_of_no_fault`). The
whole-machine rules are read off the fields.
-/
namespace Sys2Proof.Machine

/-! ## The new value of each field when no fault holds -/

section
variable (s : State)

/-- `info` of the record an instruction's fault fills (R93, R97). -/
def State.faultInfo : Instr → Nat
  | .call _ | .ret => s.sp.val
  | .skp x | .sknp x => (s.reg x).toNat
  | _ => max s.i.toNat 0x1000

/-- `pc` after a skip on `c` (R45, R53). -/
def State.skipTarget (c : Bool) : Word := if c then s.pc + 4 else s.pc + 2

/-- `V` after an instruction that does not fault: the destination, and `VF` where R5 says so. -/
def State.vAfter : Instr → Vector Byte 16
  | .ldImm x kk => (s.setReg x kk).v
  | .addImm x kk => (s.setReg x (s.reg x + kk)).v
  | .ldReg x y => (s.setReg x (s.reg y)).v
  | .or x y => (s.setReg x (s.reg x ||| s.reg y)).v
  | .and x y => (s.setReg x (s.reg x &&& s.reg y)).v
  | .xor x y => (s.setReg x (s.reg x ^^^ s.reg y)).v
  | .addReg x y =>
    (s.setResultFlag x (s.reg x + s.reg y) (carryFlag (s.reg x) (s.reg y))).v
  | .sub x y => (s.setResultFlag x (s.reg x - s.reg y) (noBorrowFlag (s.reg x) (s.reg y))).v
  | .shr x _ => (s.setResultFlag x (s.reg x >>> 1) (lsbFlag (s.reg x))).v
  | .subn x y => (s.setResultFlag x (s.reg y - s.reg x) (noBorrowFlag (s.reg y) (s.reg x))).v
  | .shl x _ => (s.setResultFlag x (s.reg x <<< 1) (msbFlag (s.reg x))).v
  | .rnd x kk => (s.setReg x (s.rand &&& kk)).v
  | .drw x y n => (s.setFlag (flagOf (s.drawn x y n).2)).v
  | .ldVxDt x => (s.setReg x s.dt).v
  | .ldVxK x => s.lowestKey.elim s.v fun k => (s.setReg x (BitVec.ofNat 8 k)).v
  | .ldRegs x => s.loadedRegs x
  | _ => s.v

/-- `I` after it (R6). -/
def State.iAfter : Instr → Word
  | .ldI nnn => addrOf nnn
  | .addI x => s.i + zextByte (s.reg x)
  | .ldF x => zextByte (s.reg x) * Config.glyphBytes
  | _ => s.i

/-- `pc` after it: a jump's target, a skip's, the held `pc` of `Fx0A`, else the default advance. -/
def State.pcAfter : Instr → Word
  | .ret => s.stack[s.sp.val - 1]'(by omega)
  | .jp nnn | .call nnn => addrOf nnn
  | .jpV0 nnn => addrOf nnn + zextByte (s.reg 0)
  | .seImm x kk => s.skipTarget (s.reg x == kk)
  | .sneImm x kk => s.skipTarget (s.reg x != kk)
  | .seReg x y => s.skipTarget (s.reg x == s.reg y)
  | .sneReg x y => s.skipTarget (s.reg x != s.reg y)
  | .skp x => s.skipTarget ((s.keyState (s.reg x).toNat).getD false)
  | .sknp x => s.skipTarget (!(s.keyState (s.reg x).toNat).getD false)
  | .ldVxK _ => if s.lowestKey.isSome then s.pc + 2 else s.pc
  | _ => s.pc + 2

/-- `STACK` after it (R8). -/
def State.stackAfter : Instr → Vector Word 16
  | .call _ => s.stack.setIfInBounds s.sp.val (s.pc + 2)
  | _ => s.stack

/-- `SP` after it (R8). -/
def State.spAfter : Instr → Fin 17
  | .call _ => ⟨min (s.sp.val + 1) 16, by omega⟩
  | .ret => ⟨s.sp.val - 1, by omega⟩
  | _ => s.sp

/-- `DT` after it (R9). -/
def State.dtAfter : Instr → Byte
  | .ldDtVx x => s.reg x
  | _ => s.dt

/-- `ST` after it (R9). -/
def State.stAfter : Instr → Byte
  | .ldStVx x => s.reg x
  | _ => s.st

/-- `FB` after it (R10). -/
def State.fbAfter : Instr → Framebuffer
  | .cls => blankScreen
  | .drw x y n => (s.drawn x y n).1
  | _ => s.fb

/-- `MEM` after it (R12). -/
def State.memAfter : Instr → Memory
  | .ldB x => s.mem.writeList s.i.toNat (bcdDigits (s.reg x))
  | .stRegs x => s.mem.writeList s.i.toNat (s.regsUpTo x)
  | _ => s.mem

/-- The model's count of random bytes after it (log 3). -/
def State.drawsAfter : Instr → Nat
  | .rnd _ _ => s.draws + 1
  | _ => s.draws

/-- The state after an instruction that does not fault. -/
def State.complete (i : Instr) : State :=
  { s with
    v := s.vAfter i, i := s.iAfter i, pc := s.pcAfter i, stack := s.stackAfter i
    sp := s.spAfter i, dt := s.dtAfter i, st := s.stAfter i, fb := s.fbAfter i
    mem := s.memAfter i, draws := s.drawsAfter i }

/-- The default advance followed by a skip writes `pc` once. -/
theorem State.advance_skipIf_eq (c : Bool) :
    s.advance.skipIf c = { s with pc := s.skipTarget c } := s.advance_skipIf c

end

/-! ## `exec` by the table of faults -/

/-- Where a row of R93's table applies, `exec` halts with that row's cause and changes nothing
else. -/
theorem exec_of_fault {s : State} {i : Instr} {c : FaultCause} (h : s.faultOf i = some c) :
    exec i s = .next (s.raise c (encode i) (s.faultInfo i)) := by
  cases i with
  | call nnn =>
    obtain ⟨hc, ⟨⟩⟩ := Option.ite_none_right_eq_some.1 h
    exact exec_call_fault s nnn hc
  | ret =>
    obtain ⟨hc, ⟨⟩⟩ := Option.ite_none_right_eq_some.1 h
    exact exec_ret_fault s hc
  | drw x y n =>
    obtain ⟨⟨hn, hc⟩, ⟨⟩⟩ := Option.ite_none_right_eq_some.1 h
    exact exec_drw_fault s x y n hn hc
  | ldRegs x =>
    obtain ⟨hc, ⟨⟩⟩ := Option.ite_none_right_eq_some.1 h
    exact exec_ldRegs_fault s x hc
  | ldB x =>
    obtain ⟨hc, ⟨⟩⟩ := Option.ite_none_right_eq_some.1 h
    exact exec_ldB_fault s x hc
  | stRegs x =>
    obtain ⟨hc, ⟨⟩⟩ := Option.ite_none_right_eq_some.1 h
    exact exec_stRegs_fault s x hc
  | skp x =>
    obtain ⟨hc, ⟨⟩⟩ := Option.ite_none_right_eq_some.1 h
    exact exec_skp_fault s x hc
  | sknp x =>
    obtain ⟨hc, ⟨⟩⟩ := Option.ite_none_right_eq_some.1 h
    exact exec_sknp_fault s x hc
  | _ => cases h

theorem State.stackAfter_call (s : State) (nnn : Addr12) (h : s.sp.val < 16) :
    s.stackAfter (.call nnn) = s.stack.set s.sp.val (s.pc + 2) h :=
  Vector.ext fun k hk => by
    rw [State.stackAfter, Vector.getElem_setIfInBounds hk, Vector.getElem_set]

theorem State.spAfter_call (s : State) (nnn : Addr12) (h : s.sp.val < 16) :
    s.spAfter (.call nnn) = ⟨s.sp.val + 1, by omega⟩ :=
  Fin.ext (Nat.min_eq_left h)

/-- Where no row applies, `exec` gives each field its new value. -/
theorem exec_of_no_fault {s : State} {i : Instr} (h : s.faultOf i = none) :
    exec i s = .next (s.complete i) := by
  cases i with
  | call nnn =>
    have hsp : s.sp.val ≠ 16 := by simpa [State.faultOf] using h
    have hc : s.sp.val < 16 := by omega
    rw [exec_call_ok s nnn hc, State.complete, s.stackAfter_call nnn hc, s.spAfter_call nnn hc]
    rfl
  | ret => exact exec_ret_ok s (Nat.pos_of_ne_zero (by simpa [State.faultOf] using h))
  | drw x y n =>
    refine exec_drw_ok s x y n (or_iff_not_imp_left.2 ?_)
    simpa [State.faultOf] using h
  | ldRegs x => exact exec_ldRegs_ok s x (by simpa [State.faultOf] using h)
  | ldB x => exact exec_ldB_ok s x (by simpa [State.faultOf] using h)
  | stRegs x => exact exec_stRegs_ok s x (by simpa [State.faultOf] using h)
  | skp x =>
    have hc : (s.reg x).toNat < 16 := Nat.lt_succ_of_le (by simpa [State.faultOf] using h)
    rw [exec_skp_ok s x hc, State.advance_skipIf_eq, State.complete, State.pcAfter,
      s.keyState_some _ hc]
    rfl
  | sknp x =>
    have hc : (s.reg x).toNat < 16 := Nat.lt_succ_of_le (by simpa [State.faultOf] using h)
    rw [exec_sknp_ok s x hc, State.advance_skipIf_eq, State.complete, State.pcAfter,
      s.keyState_some _ hc]
    rfl
  | ldVxK x =>
    cases hk : s.lowestKey with
    | none =>
      rw [exec_ldVxK_none s x hk, State.complete, State.vAfter, State.pcAfter, hk]
      rfl
    | some k =>
      rw [exec_ldVxK_some s x hk, State.complete, State.vAfter, State.pcAfter, hk]
      rfl
  | seImm | sneImm | seReg | sneReg => exact congrArg _ (s.advance_skipIf_eq _)
  | _ => rfl

/-- What an instruction can do: fault by the table and change nothing else, or complete. -/
theorem exec_cases {i : Instr} {s t : State} (h : exec i s = .next t) :
    (∃ c, s.faultOf i = some c ∧ t = s.raise c (encode i) (s.faultInfo i)) ∨
    (s.faultOf i = none ∧ t = s.complete i) := by
  cases hf : s.faultOf i with
  | none => exact .inr ⟨rfl, by simpa [exec_of_no_fault hf] using h.symm⟩
  | some c => exact .inl ⟨c, rfl, by simpa [exec_of_fault hf] using h.symm⟩

end Sys2Proof.Machine
end

section
/-!
SUPPORT. The whole-machine rules: what an instruction writes (10_state R5 to R12), when it faults
and with what effect (60_exceptions R93, R46), and what it does not read (40_cycle_driver R52,
10_state R9).
-/
namespace Sys2Proof.Machine

theorem State.complete_reg {s : State} {i : Instr} {z : Nibble} (h : i.writesReg z = false) :
    (s.complete i).reg z = s.reg z := by
  cases i with
  | ldImm | addImm | rnd | ldReg | or | and | xor | ldVxDt =>
    have hz : z ≠ _ := beq_eq_false_iff_ne.1 h
    exact (s.setReg_reg ..).trans (if_neg hz.symm)
  | addReg | sub | shr | subn | shl =>
    obtain ⟨hx, hf⟩ := Bool.or_eq_false_iff.1 h
    have hx : z ≠ _ := beq_eq_false_iff_ne.1 hx
    have hf : z ≠ vf := beq_eq_false_iff_ne.1 hf
    exact (State.setReg_reg ..).trans ((if_neg hf.symm).trans
      ((s.setReg_reg ..).trans (if_neg hx.symm)))
  | drw =>
    have hz : z ≠ vf := beq_eq_false_iff_ne.1 h
    exact (s.setReg_reg ..).trans (if_neg hz.symm)
  | ldVxK x =>
    have hz : z ≠ x := beq_eq_false_iff_ne.1 h
    cases hk : s.lowestKey with
    | none => simp [State.reg, State.complete, State.vAfter, hk]
    | some k =>
      show State.reg { s with v := s.lowestKey.elim s.v _ } z = _
      rw [hk]
      exact (s.setReg_reg ..).trans (if_neg hz.symm)
  | ldRegs x =>
    have hz : x.toNat < z.toNat := by simpa [Instr.writesReg] using h
    exact (s.loadedRegs_reg x z).trans (if_neg (by omega))
  | _ => rfl

theorem State.complete_mem_read {s : State} {i : Instr} {a : Nat}
    (h : a < s.i.toNat ∨ s.i.toNat + i.storedBytes ≤ a) :
    (s.complete i).mem.read a = s.mem.read a := by
  cases i with
  | ldB x => exact Memory.read_writeList_outside _ _ _ _ h
  | stRegs x => exact Memory.read_writeList_outside _ _ _ _ (by rwa [State.regsUpTo_length])
  | _ => rfl

end Sys2Proof.Machine

namespace Sys2Proof

open Machine

/-- Settles O46: a fault writes no register, and a completed instruction only its listed ones. -/
theorem onlyListedInstructionsWriteRegisters :
    Obligations.OnlyListedInstructionsWriteRegisters := by
  intro i s t z he hz
  obtain ⟨c, -, rfl⟩ | ⟨-, rfl⟩ := exec_cases he
  · rfl
  · exact State.complete_reg hz

/-- Settles O47: a fault touches none of these fields, and of the new value of each field only the
listed instructions' differs from the old one. -/
theorem onlyListedInstructionsWriteSpecialState :
    Obligations.OnlyListedInstructionsWriteSpecialState := by
  intro i s t he
  obtain ⟨c, -, rfl⟩ | ⟨-, rfl⟩ := exec_cases he
  · simp
  · refine ⟨fun (h : s.iAfter i ≠ s.i) => ?_, fun (h : s.stackAfter i ≠ s.stack) => ?_,
      fun (h : s.spAfter i ≠ s.sp) => ?_, fun (h : s.dtAfter i ≠ s.dt) => ?_,
      fun (h : s.stAfter i ≠ s.st) => ?_, fun (h : s.fbAfter i ≠ s.fb) => ?_, rfl, rfl, rfl⟩
    · cases i with
      | ldI | addI | ldF => simp
      | _ => exact absurd rfl h
    · cases i with
      | call => exact ⟨_, rfl⟩
      | _ => exact absurd rfl h
    · cases i with
      | call | ret => simp
      | _ => exact absurd rfl h
    · cases i with
      | ldDtVx => exact ⟨_, rfl⟩
      | _ => exact absurd rfl h
    · cases i with
      | ldStVx => exact ⟨_, rfl⟩
      | _ => exact absurd rfl h
    · cases i with
      | cls | drw => simp
      | _ => exact absurd rfl h

/-- Settles O48: a fault leaves memory alone, and a completed store writes its own bytes. -/
theorem onlyStoredBytesChange : Obligations.OnlyStoredBytesChange := by
  intro i s t a he ha
  obtain ⟨c, -, rfl⟩ | ⟨-, rfl⟩ := exec_cases he
  · rfl
  · exact State.complete_mem_read ha

/-- Settles O49: a completed instruction leaves the machine running, so a halted one has faulted. -/
theorem faultDiscardsEveryChange : Obligations.FaultDiscardsEveryChange := by
  intro i s t hr he hh
  obtain ⟨c, -, rfl⟩ | ⟨-, rfl⟩ := exec_cases he
  · exact ⟨c, _, rfl⟩
  · cases hr.symm.trans hh

/-- Settles O50: the table's fault fills the record with its cause, and without one STATUS and FAULT
keep their values. -/
theorem faultConditionsAreListed : Obligations.FaultConditionsAreListed := by
  intro i s t hr hn he
  obtain ⟨c, hf, rfl⟩ | ⟨hf, rfl⟩ := exec_cases he
  · simp [hf]
  · simp [hf, State.complete, hr, hn]

/-- Settles O51: the halted state where the fault table has a condition that holds, else the
completed one. -/
theorem everyInstructionAnswers : Obligations.EveryInstructionAnswers := by
  intro i s
  cases hf : s.faultOf i with
  | none => exact ⟨_, exec_of_no_fault hf⟩
  | some c => exact ⟨_, exec_of_fault hf⟩

/-- Settles O52: no condition of the fault table reads the draw counter, and of the new values only
those of `Cxkk` do. -/
theorem onlyRndReadsTheRandomByte : Obligations.OnlyRndReadsTheRandomByte := by
  intro i s t d hi he
  have hf : State.faultOf { s with draws := d } i = s.faultOf i := rfl
  obtain ⟨c, hc, rfl⟩ | ⟨hc, rfl⟩ := exec_cases he
  · exact exec_of_fault (hf.trans hc)
  · rw [exec_of_no_fault (hf.trans hc)]
    cases i with
    | rnd x kk => exact absurd rfl (hi x kk)
    | _ => rfl

/-- Settles O53: no condition of the fault table reads `ST`, and no new value does but the kept
`ST`, which `Fx18` overwrites. -/
theorem noInstructionReadsSoundTimer : Obligations.NoInstructionReadsSoundTimer := by
  intro i s t b he
  have hf : State.faultOf { s with st := b } i = s.faultOf i := rfl
  obtain ⟨c, hc, rfl⟩ | ⟨hc, rfl⟩ := exec_cases he
  · refine ⟨fun _ => exec_of_fault (hf.trans hc), ?_⟩
    rintro x rfl
    cases hc
  · rw [exec_of_no_fault (hf.trans hc)]
    refine ⟨fun hi => ?_, ?_⟩
    · cases i with
      | ldStVx x => exact absurd rfl (hi x)
      | _ => rfl
    · rintro x rfl
      rfl

end Sys2Proof
end

section
/-!
SUPPORT. The invariants of 10_state R17: each field `exec` writes keeps its part of them, a fault
keeps them, and so does every event (00_scope R3).
-/
namespace Sys2Proof.Machine

/-! ## The fields an instruction writes -/

/-- The default advance keeps `pc` in range; that of a skip, of 4 at most, does as well. -/
theorem State.skipTarget_le (s : State) (c : Bool) (h : s.pc.toNat ≤ 0xFFE) :
    (s.skipTarget c).toNat ≤ 0x10FE := by
  unfold State.skipTarget
  split <;> bv_omega

theorem zextByte_toNat (b : Byte) : (zextByte b).toNat = b.toNat :=
  BitVec.toNat_setWidth_of_le (by decide)

theorem addrOf_add_zextByte_toNat (nnn : Addr12) (b : Byte) :
    (addrOf nnn + zextByte b).toNat = nnn.toNat + b.toNat := by
  have := nnn.isLt
  have := b.isLt
  rw [BitVec.toNat_add, addrOf_toNat, zextByte_toNat, Nat.mod_eq_of_lt (by omega)]

theorem State.pcAfter_le {s : State} {i : Instr} (hpc : s.pc.toNat ≤ 0xFFE)
    (hst : s.StackInRange) (hf : s.faultOf i = none) : (s.pcAfter i).toNat ≤ 0x10FE := by
  have hnext : (s.pc + 2).toNat ≤ 0x10FE := s.skipTarget_le false hpc
  cases i with
  | ret =>
    have hsp : s.sp.val ≠ 0 := by simpa [State.faultOf] using hf
    exact (hst ⟨s.sp.val - 1, by omega⟩ (Nat.sub_one_lt hsp)).2.trans (by decide)
  | jp nnn | call nnn =>
    have := nnn.isLt
    simp only [State.pcAfter, addrOf_toNat]
    omega
  | jpV0 nnn =>
    have := nnn.isLt
    have := (s.reg 0).isLt
    simp only [State.pcAfter, addrOf_add_zextByte_toNat]
    omega
  | seImm | sneImm | seReg | sneReg | skp | sknp => exact s.skipTarget_le _ hpc
  | ldVxK =>
    simp only [State.pcAfter]
    split
    · exact hnext
    · omega
  | _ => exact hnext

theorem State.stackAfter_inRange {s : State} (i : Instr) (hpc : s.pc.toNat ≤ 0xFFE)
    (hst : s.StackInRange) (k : Fin 16) (hk : k.val < (s.spAfter i).val) :
    0x0002 ≤ (s.stackAfter i)[k].toNat ∧ (s.stackAfter i)[k].toNat ≤ 0x1000 := by
  cases i with
  | call =>
    have hk : k.val < min (s.sp.val + 1) 16 := hk
    simp only [State.stackAfter, Fin.getElem_fin, Vector.getElem_setIfInBounds k.isLt]
    split
    · bv_omega
    · exact hst k (by omega)
  | ret => exact hst k (hk.trans_le (Nat.sub_le ..))
  | _ => exact hst k hk

theorem State.memAfter_wf {s : State} {i : Instr} (hm : s.mem.wf = true)
    (hf : s.faultOf i = none) : (s.memAfter i).wf = true := by
  cases i with
  | ldB x =>
    refine Memory.wf_writeList _ _ _ hm ?_
    have hi : s.i.toNat + 2 ≤ 0xFFF := by simpa [State.faultOf] using hf
    exact Nat.succ_le_succ hi
  | stRegs x =>
    refine Memory.wf_writeList _ _ _ hm ?_
    have hi : s.i.toNat + x.toNat ≤ 0xFFF := by simpa [State.faultOf] using hf
    rw [State.regsUpTo_length]
    exact Nat.succ_le_succ hi
  | _ => exact hm

/-! ## The events -/

theorem State.raise_keeps_inv {s : State} (h : s.Inv) (c : FaultCause) (op : Word) (info : Nat) :
    (s.raise c op info).Inv := by
  obtain ⟨hm, -, -, hst, hpc⟩ := h
  exact ⟨hm, ⟨fun _ => rfl, fun _ => rfl⟩, by simp [State.FaultRecordSound], hst, hpc⟩

theorem exec_keeps_inv {s t : State} {i : Instr} (h : s.Inv) (hr : s.status = .running)
    (hp : s.pc.toNat ≤ 0xFFE) (he : exec i s = .next t) : t.Inv := by
  obtain ⟨c, -, rfl⟩ | ⟨hf, rfl⟩ := exec_cases he
  · exact State.raise_keeps_inv h ..
  · obtain ⟨hm, hfs, -, hst, -⟩ := h
    have hnone : s.fault = none := by simpa [hr, State.FaultMatchesStatus] using hfs
    have hrec : (s.complete i).FaultRecordSound := by
      show s.fault.all _ = true
      rw [hnone]; rfl
    exact ⟨State.memAfter_wf hm hf, hfs, hrec, State.stackAfter_inRange i hp hst,
      State.pcAfter_le hp hst hf⟩

theorem cycle_keeps_inv {s t : State} (h : s.Inv) (hc : cycle s = .next t) : t.Inv := by
  cases hr : s.status with
  | halted =>
    cases (cycle_halted s hr).symm.trans hc
    exact h
  | running =>
    by_cases hp : s.pc.toNat ≤ 0xFFE
    · rw [cycle_fetched s hr hp] at hc
      split at hc
      · cases hc; exact State.raise_keeps_inv h ..
      · exact exec_keeps_inv h hr hp hc
    · cases (cycle_unfetched s hr (by omega)).symm.trans hc
      exact State.raise_keeps_inv h ..

/-- A Tick touches only the timers and the tone, which no invariant speaks of. -/
theorem State.tick_keeps_inv {s : State} (h : s.Inv) : s.tick.Inv := by
  cases hr : s.status with
  | halted => rw [s.tick_halted hr]; exact h
  | running => rw [s.tick_running hr]; exact h

theorem setKey_cases {n : Nat} {p : Bool} {s t : State} (h : setKey n p s = .next t) :
    t = { s with keys := t.keys } := by
  unfold setKey at h
  split at h
  · cases h; rfl
  · split at h <;> cases h
    rfl

theorem loadRom_cases {bytes : List Byte} {s t : State} (h : loadRom bytes s = .next t) :
    t = s ∨ bytes.length ≤ Config.romMax ∧
      t = { s with mem := s.mem.writeList Config.progBase bytes } := by
  unfold loadRom at h
  split at h
  · cases h; exact .inl rfl
  · split at h <;> cases h
    exact .inr ⟨‹_›, rfl⟩

theorem State.reset_inv : State.reset.Inv := by decide

theorem handle_keeps_inv {e : Event} {s t : State} (h : s.Inv) (he : handle e s = .next t) :
    t.Inv := by
  cases e with
  | reset => cases he; exact State.reset_inv
  | loadRom bytes =>
    obtain rfl | ⟨hl, rfl⟩ := loadRom_cases he
    · exact h
    · obtain ⟨hm, hrest⟩ := h
      exact ⟨Memory.wf_writeList _ _ _ hm (Nat.add_le_add_left hl 0x200), hrest⟩
  | cycle => exact cycle_keeps_inv h he
  | tick => cases he; exact State.tick_keeps_inv h
  | setKey n p => rw [setKey_cases he]; exact h

theorem step_keeps_inv {s t : State} (h : s.Inv) (hs : step s = .next t) : t.Inv := by
  cases hev : s.events with
  | nil => exact cycle_keeps_inv h ((step_of_no_event s hev).symm.trans hs)
  | cons e es =>
    have h' : State.Inv { s with events := es } := h
    exact handle_keeps_inv h' ((step_of_event s e es hev).symm.trans hs)

end Sys2Proof.Machine

namespace Sys2Proof

/-- Settles O54: a Cycle keeps the invariants by the fields `exec` writes, and each other event by
the one field or two it touches. -/
theorem stepKeepsInvariants : Obligations.StepKeepsInvariants := fun _ _ => Machine.step_keeps_inv

/-- Settles O55, by evaluation of the reset state. -/
theorem invariantsHoldAtReset : Obligations.InvariantsHoldAtReset := Machine.State.reset_inv

end Sys2Proof
end

section
/-!
SUPPORT. The cycle driver and the events (40_cycle_driver R43 to R50, 20_memory R26,
70_reset_and_hazards R106).
-/
namespace Sys2Proof.Machine

/-! ## The Cycle (R43, R44, R94) -/

theorem cycle_of_decode {s : State} {w : Word} {i : Instr} (hr : s.status = .running)
    (hw : s.HasWord w) (hd : decode w = .op i) : cycle s = exec i s := by
  obtain ⟨hp, rfl⟩ := hw
  rw [cycle_fetched s hr hp, wordOfBytes, hd]

theorem cycle_of_invalid {s : State} {w : Word} (hr : s.status = .running) (hw : s.HasWord w)
    (hd : decode w = .invalid w) : cycle s = .next (s.raise .invalidOpcode w w.toNat) := by
  obtain ⟨hp, rfl⟩ := hw
  rw [cycle_fetched s hr hp, wordOfBytes, hd]

/-! ## Events of a halted machine (R47) -/

theorem loadRom_halted (bytes : List Byte) {s : State} (hh : s.status = .halted) :
    loadRom bytes s = .next s := by
  simp only [loadRom, hh]

theorem setKey_halted (n : Nat) (p : Bool) {s : State} (hh : s.status = .halted) :
    setKey n p s = .next s := by
  simp only [setKey, hh]

theorem handle_halted {e : Event} {s : State} (hh : s.status = .halted) (he : e ≠ .reset) :
    handle e s = .next { s with lastTone := if e = .tick then false else s.lastTone } := by
  cases e with
  | reset => exact absurd rfl he
  | tick => exact congrArg _ (s.tick_halted hh)
  | cycle => exact cycle_halted s hh
  | loadRom bytes => exact loadRom_halted bytes hh
  | setKey n p => exact setKey_halted n p hh

/-! ## Ticks (R48, R49) -/

theorem countDown_toNat (b : Byte) : (countDown b).toNat = b.toNat - 1 := by
  unfold countDown
  split
  · subst_vars; rfl
  · bv_omega

theorem countDown_eq_ite (b : Byte) : countDown b = if b.toNat > 0 then b - 1 else b := by
  refine BitVec.eq_of_toNat_eq ?_
  rw [countDown_toNat]
  split
  · bv_omega
  · omega

theorem beq_one_eq_decide (b : Byte) : (b == 1) = decide (b.toNat = 1) := by
  rw [Bool.beq_eq_decide_eq]; exact decide_eq_decide.2 (BitVec.toNat_inj (y := 1#8)).symm

theorem State.tick_status (s : State) : s.tick.status = s.status := by
  cases h : s.status with
  | halted => rw [s.tick_halted h]; exact h
  | running => rw [s.tick_running h]; exact h

theorem State.ticks_status (s : State) (k : Nat) : (s.ticks k).status = s.status := by
  induction k with
  | zero => rfl
  | succ k ih => exact (State.tick_status _).trans ih

theorem State.ticks_timers {s : State} (h : s.status = .running) (k : Nat) :
    (s.ticks k).dt.toNat = s.dt.toNat - k ∧ (s.ticks k).st.toNat = s.st.toNat - k := by
  induction k with
  | zero => exact ⟨rfl, rfl⟩
  | succ k ih =>
    obtain ⟨hdt, hst⟩ := ih
    have hr : (s.ticks k).status = .running := (s.ticks_status k).trans h
    simp only [State.ticks, State.tick_running _ hr, countDown_toNat, hdt, hst]
    omega

end Sys2Proof.Machine

namespace Sys2Proof

open Machine

theorem run_of_step_self (M : Host.Core) {s : M.State} (h : M.step s = .next s) (k : Nat) :
    M.run k s = .next s := by
  induction k with
  | zero => rfl
  | succ k ih => rw [Host.Core.run, h]; exact ih

/-- Settles O6: with no event listed the step is a Cycle, with a Cycle listed it is one of the state
without it, and a Cycle that fetches a defined word is its execution. -/
theorem stepRunsDecodedInstruction : Obligations.StepRunsDecodedInstruction := by
  intro s w i hr hw hd
  exact ⟨fun h => (step_of_no_event s h).trans (cycle_of_decode hr hw hd),
    fun es h => (step_of_listed_cycle s es h).trans (cycle_of_decode hr hw hd)⟩

/-- Settles O7: a word no instruction decodes from decodes to INVALID, which the Cycle raises. -/
theorem invalidWordHalts : Obligations.InvalidWordHalts := by
  intro s w hr hw hn
  have hd : decode w = .invalid w := (decode_op_or_invalid w).resolve_left fun ⟨i, hi⟩ => hn i hi
  exact ⟨fun h => (step_of_no_event s h).trans (cycle_of_invalid hr hw hd),
    fun es h => (step_of_listed_cycle s es h).trans (cycle_of_invalid hr hw hd)⟩

/-- Settles O8: the Cycle raises FETCH with the lower address missing, `max pc 0x1000`. -/
theorem fetchOutOfRangeHalts : Obligations.FetchOutOfRangeHalts := by
  intro s hr hp
  have hinfo : (if s.pc.toNat > 0xFFF then s.pc.toNat else 0x1000) = max s.pc.toNat 0x1000 := by
    split <;> omega
  rw [hinfo]
  exact ⟨fun h => (step_of_no_event s h).trans (cycle_unfetched s hr hp),
    fun es h => (step_of_listed_cycle s es h).trans (cycle_unfetched _ hr hp)⟩

/-- Settles O9: one case per event, and a Cycle when none is listed. -/
theorem haltedIsAbsorbing : Obligations.HaltedIsAbsorbing := by
  intro s hh
  exact ⟨fun h => (step_of_no_event s h).trans (cycle_halted s hh),
    fun e es h he => (step_of_event s e es h).trans
      (handle_halted (s := { s with events := es }) hh he)⟩

/-- Settles O10: the halted state is its own next state, so any number of steps keeps it. -/
theorem haltedStaysForAnyNumberOfCycles : Obligations.HaltedStaysForAnyNumberOfCycles := by
  intro k s hh he
  exact run_of_step_self core ((step_of_no_event s he).trans (cycle_halted s hh)) k

/-- Settles O11: the Reset event answers the restarted state, whatever the state was. -/
theorem resetFromAnyState : Obligations.ResetFromAnyState := by
  intro s es h
  rw [step_of_event s _ es h]
  rfl

/-- Settles O12: every field evaluated at reset. -/
theorem resetValues : Obligations.ResetValues := by
  refine ⟨fun x => ?_, rfl, rfl, rfl, ?_, rfl, rfl, cell_blankScreen, ?_, fun a => rfl, rfl, rfl⟩
  · simp [State.reg, State.reset]
  · decide
  · decide

/-- Settles O13: the two cases of a Tick, with the timer step and the tone read as numbers. -/
theorem tickStepsBothTimers : Obligations.TickStepsBothTimers := by
  intro s es h
  rw [step_of_event s _ es h]
  refine ⟨fun hr => ?_, fun hh => ?_⟩
  · refine congrArg _ ((State.tick_running { s with events := es } hr).trans ?_)
    simp only [countDown_eq_ite, beq_one_eq_decide]
  · exact congrArg _ (State.tick_halted { s with events := es } hh)

/-- Settles O14: `ST` is down by `k` before the last Tick, so it is 1 there iff it was `k + 1`. -/
theorem toneOnTheLastTick : Obligations.ToneOnTheLastTick := by
  intro s k hr
  obtain ⟨-, hst⟩ := State.ticks_timers hr k
  rw [State.ticks, State.tick_running _ ((s.ticks_status k).trans hr)]
  show ((s.ticks k).st == 1) = _
  rw [beq_one_eq_decide, hst]
  exact decide_eq_decide.2 (by omega)

/-- Settles O15, by induction on the number of Ticks. -/
theorem timersStopAtZero : Obligations.TimersStopAtZero := fun _ k hr => State.ticks_timers hr k

/-- Settles O16: on a running machine the key number alone decides. -/
theorem setKeyWritesOneKey : Obligations.SetKeyWritesOneKey := by
  intro s es n p h hr
  rw [step_of_event s _ es h]
  refine ⟨fun hn => ?_, fun hn => ?_⟩
  · simp only [handle, setKey, hr, dif_pos hn]
  · simp only [handle, setKey, hr, dif_neg (Nat.not_lt.2 hn)]

/-- Settles O17: on a running machine the length alone decides, and the bytes are written one after
the other from 0x200 on. -/
theorem loadRomCopiesBytes : Obligations.LoadRomCopiesBytes := by
  intro s es bytes h hr
  rw [step_of_event s _ es h]
  refine ⟨fun hl => ?_, fun hl => ?_⟩
  · refine ⟨{ s with events := es, mem := s.mem.writeList 0x200 bytes }, ?_, fun k hk => ?_,
      fun a ha => ?_, rfl⟩
    · simp only [handle, loadRom, hr]
      exact if_pos hl
    · exact Memory.read_writeList_inside _ _ _ _ hk
    · exact Memory.read_writeList_outside _ _ _ _ ha
  · simp only [handle, loadRom, hr]
    exact if_neg (Nat.not_le.2 hl)

end Sys2Proof
end

section
/-!
SUPPORT. Skips and ALU (41_skips R56 to R59, 42_alu R60 to R72): the skip on a tested key, the
result and the flag written last, and the values of both as numbers.
-/
namespace Sys2Proof.Machine

section
variable (x y : Nibble) (kk : Byte) (s : State)

theorem exec_seReg : exec (.seReg x y) s = .next (s.advance.skipIf (s.reg x == s.reg y)) := rfl

theorem exec_sneReg : exec (.sneReg x y) s = .next (s.advance.skipIf (s.reg x != s.reg y)) := rfl

theorem exec_addImm : exec (.addImm x kk) s = .next (s.advance.setReg x (s.reg x + kk)) := rfl

theorem exec_or : exec (.or x y) s = .next (s.advance.setReg x (s.reg x ||| s.reg y)) := rfl

theorem exec_and : exec (.and x y) s = .next (s.advance.setReg x (s.reg x &&& s.reg y)) := rfl

theorem exec_xor : exec (.xor x y) s = .next (s.advance.setReg x (s.reg x ^^^ s.reg y)) := rfl

theorem exec_addReg : exec (.addReg x y) s
    = .next (s.advance.setResultFlag x (s.reg x + s.reg y) (carryFlag (s.reg x) (s.reg y))) := rfl

theorem exec_sub : exec (.sub x y) s
    = .next (s.advance.setResultFlag x (s.reg x - s.reg y)
        (noBorrowFlag (s.reg x) (s.reg y))) := rfl

theorem exec_shr : exec (.shr x y) s
    = .next (s.advance.setResultFlag x (s.reg x >>> 1) (lsbFlag (s.reg x))) := rfl

theorem exec_subn : exec (.subn x y) s
    = .next (s.advance.setResultFlag x (s.reg y - s.reg x)
        (noBorrowFlag (s.reg y) (s.reg x))) := rfl

theorem exec_shl : exec (.shl x y) s
    = .next (s.advance.setResultFlag x (s.reg x <<< 1) (msbFlag (s.reg x))) := rfl

end

/-! ## Flags and results as numbers (R61) -/

theorem flagOf_toNat (c : Bool) : (flagOf c).toNat = if c then 1 else 0 := by cases c <;> rfl

theorem carryFlag_toNat (a b : Byte) :
    (carryFlag a b).toNat = if a.toNat + b.toNat > 255 then 1 else 0 := by
  simp [carryFlag, flagOf_toNat]

theorem noBorrowFlag_toNat (a b : Byte) :
    (noBorrowFlag a b).toNat = if a.toNat ≥ b.toNat then 1 else 0 := by
  simp [noBorrowFlag, flagOf_toNat]

theorem flagOf_testBit_toNat (n k : Nat) : (flagOf (n.testBit k)).toNat = n / 2 ^ k % 2 := by
  rw [flagOf_toNat, Nat.testBit_eq_decide_div_mod_eq]
  split <;> simp_all

theorem lsbFlag_toNat (a : Byte) : (lsbFlag a).toNat = a.toNat % 2 := by
  refine (flagOf_testBit_toNat a.toNat 0).trans ?_
  rw [pow_zero, Nat.div_one]

theorem msbFlag_toNat (a : Byte) : (msbFlag a).toNat = a.toNat / 128 := by
  have := a.isLt
  refine (flagOf_testBit_toNat a.toNat 7).trans ?_
  omega

theorem sub_toNat (a b : Byte) : (a - b).toNat = (a.toNat + 256 - b.toNat) % 256 := by
  have := b.isLt
  rw [BitVec.toNat_sub]
  omega

theorem shiftLeft_one_toNat (a : Byte) : (a <<< 1).toNat = a.toNat * 2 % 256 := by
  rw [BitVec.toNat_shiftLeft, Nat.shiftLeft_eq]

theorem shiftRight_one_toNat (a : Byte) : (a >>> 1).toNat = a.toNat / 2 := by
  rw [BitVec.toNat_ushiftRight, Nat.shiftRight_eq_div_pow]

/-- R60: the result stands in `V[x]` unless the flag, written last, overwrites it; `VF` holds the
flag whatever `x` is; nothing else but `pc` moves. -/
theorem State.advance_setResultFlag_frame (s : State) (x : Nibble) {r f : Byte} {p q : Nat}
    (hr : r.toNat = p) (hf : f.toNat = q) :
    (x ≠ 15 → ((s.advance.setResultFlag x r f).reg x).toNat = p) ∧
    ((s.advance.setResultFlag x r f).reg 15).toNat = q ∧
    (∀ z, z ≠ x → z ≠ 15 → (s.advance.setResultFlag x r f).reg z = s.reg z) ∧
    s.advance.setResultFlag x r f
      = { s with pc := s.pc + 2, v := (s.advance.setResultFlag x r f).v } := by
  refine ⟨fun (hx : x ≠ vf) => ?_, ?_, fun z hx (hz : z ≠ vf) => ?_, rfl⟩
  · rw [State.setResultFlag_eq, State.setReg_reg, if_neg hx.symm, State.setReg_reg, if_pos rfl, hr]
  · rw [State.setResultFlag_eq, show (15 : Nibble) = vf from rfl, State.setReg_reg, if_pos rfl, hf]
  · rw [State.setResultFlag_eq, State.setReg_reg, if_neg hz.symm, State.setReg_reg, if_neg hx.symm,
      State.advance_reg]

end Sys2Proof.Machine

namespace Sys2Proof

open Machine

theorem decode_seReg_invalid (x y : Nibble) {n : Nibble} (hn : n ≠ 0) :
    decode (0x5#4 ++ x ++ y ++ n) = .invalid (0x5#4 ++ x ++ y ++ n) := by
  simp only [decode, fieldN3_xyn, fieldN_xyn]
  exact if_neg hn

theorem decode_sneReg_invalid (x y : Nibble) {n : Nibble} (hn : n ≠ 0) :
    decode (0x9#4 ++ x ++ y ++ n) = .invalid (0x9#4 ++ x ++ y ++ n) := by
  simp only [decode, fieldN3_xyn, fieldN_xyn]
  exact if_neg hn

/-- Settles O19: the last digit 0 selects the instruction and any other digit INVALID; the effects
are a skip on equality and one on inequality. -/
theorem skipOnRegister : Obligations.SkipOnRegister := by
  refine fun x y => ⟨decode_encode (.seReg x y), decode_encode (.sneReg x y), fun n hn =>
    ⟨decode_seReg_invalid x y hn, decode_sneReg_invalid x y hn⟩, fun s => ⟨?_, ?_⟩⟩
  · rw [exec_seReg, State.advance_skipIf_beq]
  · rw [exec_sneReg, State.advance_skipIf_bne]

/-- Settles O20: below 16 the key's state decides the skip, above 15 the key number faults. -/
theorem skipOnKey : Obligations.SkipOnKey := by
  refine fun x s => ⟨fun h => ⟨?_, ?_⟩, fun h => ⟨exec_skp_fault s x h, exec_sknp_fault s x h⟩⟩
  · rw [exec_skp_ok s x h, State.advance_skipIf]
  · rw [exec_sknp_ok s x h, State.advance_skipIf]
    cases s.keys[(s.reg x).toNat] <;> rfl

/-- Settles O22: the sum of bytes is the sum modulo 256, and `V[x]` is the one register written. -/
theorem addImmediateWraps : Obligations.AddImmediateWraps := by
  intro x kk s
  obtain ⟨hx, hrest⟩ := s.advance_setReg_frame x (s.reg x + kk)
  exact ⟨_, exec_addImm x kk s, by rw [hx, BitVec.toNat_add], hrest⟩

/-- Settles O23: each result is written to `V[x]` alone, and its bits are those of the operation. -/
theorem logicalOperationsBitwise : Obligations.LogicalOperationsBitwise := by
  intro x y s
  obtain ⟨hor, horRest⟩ := s.advance_setReg_frame x (s.reg x ||| s.reg y)
  obtain ⟨hand, handRest⟩ := s.advance_setReg_frame x (s.reg x &&& s.reg y)
  obtain ⟨hxor, hxorRest⟩ := s.advance_setReg_frame x (s.reg x ^^^ s.reg y)
  exact ⟨⟨_, exec_or x y s, fun k _ => by rw [hor, BitVec.getLsbD_or], horRest⟩,
    ⟨_, exec_and x y s, fun k _ => by rw [hand, BitVec.getLsbD_and], handRest⟩,
    ⟨_, exec_xor x y s, fun k _ => by rw [hxor, BitVec.getLsbD_xor], hxorRest⟩⟩

/-- Settles O24: the sum and the carry as numbers, the carry written last. -/
theorem addSetsCarry : Obligations.AddSetsCarry := fun x y =>
  ⟨decode_encode (.addReg x y), fun s => ⟨_, exec_addReg x y s,
    s.advance_setResultFlag_frame x (BitVec.toNat_add ..) (carryFlag_toNat ..)⟩⟩

/-- Settles O25: both differences and their NOT borrow as numbers, the flag written last. -/
theorem subtractSetsNotBorrow : Obligations.SubtractSetsNotBorrow := fun x y =>
  ⟨decode_encode (.sub x y), decode_encode (.subn x y), fun s =>
    ⟨⟨_, exec_sub x y s, s.advance_setResultFlag_frame x (sub_toNat ..) (noBorrowFlag_toNat ..)⟩,
    ⟨_, exec_subn x y s, s.advance_setResultFlag_frame x (sub_toNat ..) (noBorrowFlag_toNat ..)⟩⟩⟩

/-- Settles O26: both shifts and the bit shifted out as numbers, the flag written last. -/
theorem shiftsSetBitShiftedOut : Obligations.ShiftsSetBitShiftedOut := fun x y =>
  ⟨decode_encode (.shr x y), decode_encode (.shl x y), fun s =>
    ⟨⟨_, exec_shr x y s,
      s.advance_setResultFlag_frame x (shiftRight_one_toNat _) (lsbFlag_toNat _)⟩,
    ⟨_, exec_shl x y s,
      s.advance_setResultFlag_frame x (shiftLeft_one_toNat _) (msbFlag_toNat _)⟩⟩⟩

end Sys2Proof
end

section
/-!
SUPPORT. Control flow (43_control_flow R73 to R76).
-/
namespace Sys2Proof

theorem Machine.exec_jpV0 (nnn : Addr12) (s : Machine.State) :
    Machine.exec (.jpV0 nnn) s
      = .next (s.jump (Machine.addrOf nnn + Machine.zextByte (s.reg 0))) := rfl

open Machine

/-- Settles O28: the jump writes to `pc` the address it already holds. -/
theorem jumpToSelfChangesNothing : Obligations.JumpToSelfChangesNothing := by
  rintro nnn s ⟨hr, he⟩ hw hpc
  have hself : addrOf nnn = s.pc := BitVec.eq_of_toNat_eq ((addrOf_toNat nnn).trans hpc.symm)
  rw [step_of_no_event s he, cycle_of_decode hr hw (decode_jp nnn), exec_jp, hself]
  rfl

/-- Settles O29: the push writes the one slot `SP` names; with 16 addresses it faults. -/
theorem callPushesReturnAddress : Obligations.CallPushesReturnAddress := by
  refine fun nnn => ⟨decode_encode (.call nnn), fun s => ⟨fun h => ?_, fun h => ?_⟩⟩
  · refine ⟨_, exec_call_ok s nnn h, ?_, fun k hk hne => ?_, rfl, addrOf_toNat nnn, rfl⟩
    · exact Vector.getElem_set_self ..
    · exact Vector.getElem_set_ne h hk hne.symm
  · rw [exec_call_fault s nnn h, h]
    rfl

/-- Settles O30: the pop reads the slot below `SP` and writes none; on an empty stack it faults. -/
theorem returnPopsStack : Obligations.ReturnPopsStack := by
  refine ⟨decode_encode .ret, fun s => ⟨fun h => ⟨_, exec_ret_ok s h, rfl, rfl, rfl⟩, fun h => ?_⟩⟩
  rw [exec_ret_fault s h, h]
  rfl

/-- Settles O31: after the push `SP` is above 0, and the slot popped is the one just written. -/
theorem callThenReturnComesBack : Obligations.CallThenReturnComesBack := by
  intro nnn s h
  refine ⟨_, _, exec_call_ok s nnn h, exec_ret_ok _ (Nat.succ_pos _), ?_, rfl, ?_,
    fun k hk hne => ?_, rfl⟩
  · exact Vector.getElem_set_self ..
  · exact Vector.getElem_set_self ..
  · exact Vector.getElem_set_ne h hk hne.symm

/-- Settles O32: the sum of a 12-bit address and a byte does not wrap at 16 bits. -/
theorem jumpWithOffset : Obligations.JumpWithOffset := fun nnn s =>
  ⟨_, exec_jpV0 nnn s, addrOf_add_zextByte_toNat nnn (s.reg 0), rfl⟩

end Sys2Proof
end

section
/-!
SUPPORT. Random, key wait, timers, index register and memory (45_random_keypad_timers R82 to R86,
46_index_memory R88 to R92).
-/
namespace Sys2Proof.Machine

section
variable (x : Nibble) (kk : Byte) (s : State)

theorem exec_rnd : exec (.rnd x kk) s
    = .next { s.advance.setReg x (s.rand &&& kk) with draws := s.draws + 1 } := rfl

theorem exec_ldVxDt : exec (.ldVxDt x) s = .next (s.advance.setReg x s.dt) := rfl

theorem exec_ldDtVx : exec (.ldDtVx x) s = .next { s with pc := s.pc + 2, dt := s.reg x } := rfl

theorem exec_ldStVx : exec (.ldStVx x) s = .next { s with pc := s.pc + 2, st := s.reg x } := rfl

theorem exec_addI : exec (.addI x) s = .next (s.advance.setI (s.i + zextByte (s.reg x))) := rfl

theorem exec_ldF : exec (.ldF x) s
    = .next (s.advance.setI (zextByte (s.reg x) * Config.glyphBytes)) := rfl

end

/-- Each decimal digit of a byte fits a byte, so its value is the digit's (R90). -/
theorem bcdDigit_toNat (b : Byte) :
    (BitVec.ofNat 8 (b.toNat / 100)).toNat = b.toNat / 100 ∧
    (BitVec.ofNat 8 (b.toNat / 10 % 10)).toNat = b.toNat / 10 % 10 ∧
    (BitVec.ofNat 8 (b.toNat % 10)).toNat = b.toNat % 10 := by
  have := b.isLt
  simp only [BitVec.toNat_ofNat]
  omega

theorem Memory.read_bcdDigits (base : Nat) (b : Byte) (m : Memory) :
    (Memory.read base (Memory.writeList base (bcdDigits b) m)).toNat = b.toNat / 100 ∧
    (Memory.read (base + 1) (Memory.writeList base (bcdDigits b) m)).toNat = b.toNat / 10 % 10 ∧
    (Memory.read (base + 2) (Memory.writeList base (bcdDigits b) m)).toNat = b.toNat % 10 := by
  obtain ⟨h0, h1, h2⟩ := bcdDigit_toNat b
  have hread := fun k hk => congrArg BitVec.toNat
    (Memory.read_writeList_inside base k (bcdDigits b) m hk)
  exact ⟨(hread 0 (by decide : 0 < 3)).trans h0, (hread 1 (by decide : 1 < 3)).trans h1,
    (hread 2 (by decide : 2 < 3)).trans h2⟩

theorem Memory.read_regsUpTo (base : Nat) (s : State) (x k : Nibble) (m : Memory)
    (h : k.toNat ≤ x.toNat) :
    Memory.read (base + k.toNat) (Memory.writeList base (s.regsUpTo x) m) = s.reg k := by
  rw [Memory.read_writeList_inside _ _ _ _ (by rw [s.regsUpTo_length]; omega)]
  exact (List.getElem_eq_iff _).2 (s.regsUpTo_getElem? x k h)

end Sys2Proof.Machine

namespace Sys2Proof

open Machine

/-- Settles O37: the masked byte is written to `V[x]`, and AND keeps no bit outside the mask. -/
theorem randomIsMasked : Obligations.RandomIsMasked := by
  intro x kk s
  obtain ⟨hx, hz, -⟩ := s.advance_setReg_frame x (s.rand &&& kk)
  refine ⟨_, exec_rnd x kk s, hx, fun k _ hk => ?_, hz, rfl⟩
  refine (congrArg (BitVec.getLsbD · k) hx).trans ?_
  rw [BitVec.getLsbD_and, hk, Bool.and_false]

/-- Settles O38: one register or timer is written besides `pc`. -/
theorem timerAccess : Obligations.TimerAccess := fun x =>
  ⟨decode_encode (.ldVxDt x), decode_encode (.ldDtVx x), decode_encode (.ldStVx x), fun s =>
    ⟨⟨_, exec_ldVxDt x s, s.advance_setReg_frame x s.dt⟩, exec_ldDtVx x s, exec_ldStVx x s⟩⟩

/-- Settles O39: with no key the hold undoes the default advance; else the least key, a number below
16, is written to `V[x]`. -/
theorem keyWait : Obligations.KeyWait := by
  refine fun x s => ⟨fun h => exec_ldVxK_none s x (s.lowestKey_none.2 h), fun k hk hp hlow => ?_⟩
  obtain ⟨hx, hrest⟩ := s.advance_setReg_frame x (BitVec.ofNat 8 k)
  refine ⟨_, exec_ldVxK_some s x ((s.lowestKey_some k).2 ⟨hk, hp, hlow⟩), ?_, hrest⟩
  rw [hx, BitVec.toNat_ofNat, Nat.mod_eq_of_lt (by omega)]

/-- Settles O41: the sum wraps at 16 bits, and five times a byte does not. -/
theorem indexArithmetic : Obligations.IndexArithmetic := by
  refine fun x s => ⟨⟨_, exec_addI x s, ?_, rfl⟩, ⟨_, exec_ldF x s, ?_, rfl⟩⟩
  · rw [State.setI_i, BitVec.toNat_add, zextByte_toNat]
  · have := (s.reg x).isLt
    rw [State.setI_i, BitVec.toNat_mul, zextByte_toNat]
    exact Nat.mod_eq_of_lt (by simp [Config.glyphBytes]; omega)

/-- Settles O42: the three digits are written from `I` on, and a run that leaves memory faults. -/
theorem storeBcdDigits : Obligations.StoreBcdDigits := by
  refine fun x => ⟨decode_encode (.ldB x), fun s => ⟨fun h => ?_, exec_ldB_fault s x⟩⟩
  obtain ⟨h0, h1, h2⟩ := Memory.read_bcdDigits s.i.toNat (s.reg x) s.mem
  exact ⟨_, exec_ldB_ok s x h, h0, h1, h2,
    fun a ha => Memory.read_writeList_outside _ _ _ _ ha, rfl⟩

/-- Settles O43: the register list is written from `I` on, and a run that leaves memory faults. -/
theorem storeRegisters : Obligations.StoreRegisters := by
  refine fun x => ⟨decode_encode (.stRegs x), fun s => ⟨fun h => ?_, exec_stRegs_fault s x⟩⟩
  refine ⟨_, exec_stRegs_ok s x h, fun k hk => ?_, fun a ha => ?_, rfl⟩
  · exact Memory.read_regsUpTo _ s x k _ hk
  · exact Memory.read_writeList_outside _ _ _ _ (by rw [State.regsUpTo_length]; omega)

/-- Settles O44: the loaded registers read memory up to `x` and the old registers above. -/
theorem loadRegisters : Obligations.LoadRegisters := by
  refine fun x => ⟨decode_encode (.ldRegs x), fun s => ⟨fun h => ?_, exec_ldRegs_fault s x⟩⟩
  refine ⟨_, exec_ldRegs_ok s x h, fun k hk => ?_, fun k hk => ?_, rfl⟩
  · exact (s.loadedRegs_reg x k).trans (if_pos hk)
  · exact (s.loadedRegs_reg x k).trans (if_neg (Nat.not_le.2 hk))

/-- Settles O45: the store leaves the machine due for a Cycle at `pc + 2`, where memory then holds
the two registers' bytes. -/
theorem storedWordIsExecutedNext : Obligations.StoredWordIsExecutedNext := by
  rintro x k s i ⟨hr, he⟩ hk hx hpc hw hd
  have hxl := x.isLt
  obtain ⟨t, ht, hread, -, hframe⟩ := ((storeRegisters x).2 s).1 hx
  have hk1 : (k + 1).toNat = k.toNat + 1 := by bv_omega
  have hpc2 : (s.pc + 2).toNat = s.i.toNat + k.toNat := by have := hw.1; bv_omega
  have hword : t.HasWord (s.reg k ++ s.reg (k + 1)) := by
    rw [hframe]
    refine ⟨by show (s.pc + 2).toNat ≤ _; omega, ?_⟩
    simp only [hpc2]
    rw [ hread k hk.le, Nat.add_assoc, ← hk1, hread (k + 1) (by omega)]
  refine ⟨t, ?_, ?_⟩
  · rw [step_of_no_event s he, cycle_of_decode hr hw (decode_encode (.stRegs x)), ht]
  · have ht' : t.status = .running ∧ t.events = [] := by rw [hframe]; exact ⟨hr, he⟩
    obtain ⟨htr, hte⟩ := ht'
    rw [step_of_no_event t hte, cycle_of_decode htr hword hd]

end Sys2Proof
end

section
/-!
SUPPORT. The draw (44_graphics R78, R79, R81): which cells a sprite's set bits touch, that no cell
is touched twice by a sprite of at most 32 rows, and so what `Dxyn` does to the cells and to `VF`.
-/
namespace Sys2Proof.Machine

/-! ## The cells of a sprite -/

theorem mem_rowCells {bx py : Nat} {b : Byte} {d : Fin 2048} :
    d ∈ rowCells .wrap bx py b ↔
      ∃ c < 8, b.getLsbD (7 - c) = true ∧ d.val = py % 32 * 64 + (bx + c) % 64 := by
  simp only [rowCells, List.mem_filterMap, List.mem_range, pixelCell,
    Option.ite_none_right_eq_some, Option.some.injEq, Fin.ext_iff, eq_comm (a := d.val)]

theorem mem_spriteCells {p : EdgePolicy} {bx py : Nat} {rows : List Byte} {d : Fin 2048} :
    d ∈ spriteCells p bx py rows ↔
      ∃ r b, rows[r]? = some b ∧ d ∈ rowCells p bx (py + r) b := by
  induction rows generalizing py with
  | nil => simp [spriteCells]
  | cons b bs ih =>
    rw [spriteCells, List.mem_append, ih]
    constructor
    · rintro (h | ⟨r, b', hb, h⟩)
      · exact ⟨0, b, rfl, h⟩
      · exact ⟨r + 1, b', hb, by rwa [Nat.add_right_comm] at h⟩
    · rintro ⟨_ | r, b', hb, h⟩
      · cases hb; exact .inl h
      · exact .inr ⟨r, b', hb, by rwa [Nat.add_right_comm]⟩

/-- The 8 columns of one row are distinct modulo 64. -/
theorem rowCells_nodup (bx py : Nat) (b : Byte) : (rowCells .wrap bx py b).Nodup := by
  refine List.pairwise_filterMap.2
    (List.pairwise_lt_range.imp_of_mem fun {c c'} hc hc' hlt d hd d' hd' => ?_)
  rw [List.mem_range] at hc hc'
  simp only [pixelCell, Option.ite_none_right_eq_some, Option.some.injEq] at hd hd'
  obtain ⟨-, rfl⟩ := hd
  obtain ⟨-, rfl⟩ := hd'
  simp only [ne_eq, Fin.mk.injEq]
  omega

/-- At most 32 consecutive rows are distinct modulo 32. -/
theorem spriteCells_nodup (bx py : Nat) (rows : List Byte) (h : rows.length ≤ 32) :
    (spriteCells .wrap bx py rows).Nodup := by
  induction rows generalizing py with
  | nil => exact List.nodup_nil
  | cons b bs ih =>
    rw [List.length_cons] at h
    refine List.nodup_append.2 ⟨rowCells_nodup .., ih _ (by omega), fun d hd d' hd' => ?_⟩
    rintro rfl
    obtain ⟨r, b', hr, hd'⟩ := mem_spriteCells.1 hd'
    obtain ⟨c, -, -, hc⟩ := mem_rowCells.1 hd
    obtain ⟨c', -, -, hc'⟩ := mem_rowCells.1 hd'
    have hlen : r < bs.length := (List.getElem?_eq_some_iff.1 hr).1
    omega

/-! ## What is drawn -/

section
variable (s : State) (x y n : Nibble)

theorem State.drawnCells_nodup : (s.drawnCells x y n).Nodup :=
  spriteCells_nodup _ _ _ (by have := n.isLt; rw [s.bytesAt_length]; omega)

theorem State.mem_drawnCells (d : Fin 2048) : d ∈ s.drawnCells x y n ↔ s.SpriteCovers x y n d := by
  refine mem_spriteCells.trans ?_
  simp only [State.bytesAt_getElem?, Option.ite_none_right_eq_some, Option.some.injEq]
  constructor
  · rintro ⟨r, b, ⟨hr, rfl⟩, hd⟩
    obtain ⟨c, hc, hbit, hval⟩ := mem_rowCells.1 hd
    exact ⟨r, c, hr, hc, hbit, hval⟩
  · rintro ⟨r, c, hr, hc, hbit, hval⟩
    exact ⟨r, _, ⟨hr, rfl⟩, mem_rowCells.2 ⟨c, hc, hbit, hval⟩⟩

theorem State.drawn_cell (d : Fin 2048) :
    (s.drawn x y n).1.cell d ≠ s.fb.cell d ↔ s.SpriteCovers x y n d := by
  rw [← s.mem_drawnCells, State.drawn, toggleCells_cell _ _ _ (s.drawnCells_nodup x y n)]
  by_cases hd : d ∈ s.drawnCells x y n <;> simp [hd]

theorem State.drawn_hit :
    (s.drawn x y n).2 = true ↔ ∃ d, s.SpriteCovers x y n d ∧ s.fb.cell d = true := by
  rw [State.drawn, toggleCells_hit _ _ _ (s.drawnCells_nodup x y n)]
  simp [s.mem_drawnCells]

end

end Sys2Proof.Machine

namespace Sys2Proof

open Machine

/-- Settles O34: the sprite touches each covered cell once, so a toggle flips it and the hit is that
of a covered lit cell; the coordinates are read before `VF` is written. -/
theorem drawFlipsCoveredCells : Obligations.DrawFlipsCoveredCells := by
  intro x y n s h
  refine ⟨_, exec_drw_ok s x y n h, s.drawn_cell x y n, ?_,
    fun z (hz : z ≠ vf) => (State.setReg_reg ..).trans (if_neg hz.symm), rfl⟩
  have hvf : ∀ f, ((s.advance.setFb (s.drawn x y n).1).setReg vf f).reg 15 = f := fun f =>
    (State.setReg_reg ..).trans (if_pos rfl)
  rw [hvf]
  cases hd : (s.drawn x y n).2 with
  | true => exact .inl ⟨rfl, (s.drawn_hit x y n).1 hd⟩
  | false =>
    refine .inr ⟨rfl, fun d hc => Bool.eq_false_iff.2 fun hl => ?_⟩
    exact Bool.eq_false_iff.1 hd ((s.drawn_hit x y n).2 ⟨d, hc, hl⟩)

/-- Settles O35: the second draw covers the same cells, since the first wrote neither `I`, memory
nor the coordinate registers; so each covered cell is flipped twice, and is lit in between. -/
theorem drawTwiceRestores : Obligations.DrawTwiceRestores := by
  intro x y n s hx hy h
  obtain ⟨t, ht, hcell, hvf, hreg, hframe⟩ := drawFlipsCoveredCells x y n s h
  have hi : t.i = s.i := by rw [hframe]
  have hmem : t.mem = s.mem := by rw [hframe]
  have hcov : ∀ d, State.SpriteCovers { t with pc := s.pc } x y n d ↔ s.SpriteCovers x y n d := by
    intro d
    show t.SpriteCovers x y n d ↔ _
    rw [State.SpriteCovers, State.SpriteCovers, hi, hmem, hreg x hx, hreg y hy]
  obtain ⟨u, hu, hcell', hvf', -⟩ :=
    drawFlipsCoveredCells x y n { t with pc := s.pc } (by rwa [← hi] at h)
  refine ⟨t, u, ht, hu, fun d => ?_, fun hclear hsome => ⟨?_, ?_⟩⟩
  · have hcell' : u.fb.cell d ≠ t.fb.cell d ↔ s.SpriteCovers x y n d := (hcell' d).trans (hcov d)
    by_cases hd : s.SpriteCovers x y n d
    · rw [Bool.eq_not.2 (hcell'.2 hd), Bool.eq_not.2 ((hcell d).2 hd), Bool.not_not]
    · exact (not_not.1 (mt hcell'.1 hd)).trans (not_not.1 (mt (hcell d).1 hd))
  · obtain ⟨-, d, hd, hlit⟩ | ⟨hzero, -⟩ := hvf
    · simp [hclear d hd] at hlit
    · exact hzero
  · obtain ⟨hone, -⟩ | ⟨-, hdark⟩ := hvf'
    · exact hone
    · obtain ⟨d, hd⟩ := hsome
      have hflip : t.fb.cell d ≠ s.fb.cell d := (hcell d).2 hd
      exact absurd ((hdark d ((hcov d).2 hd)).trans (hclear d hd).symm) hflip

/-- Settles O36: a run of reads that leaves memory faults before anything is drawn. -/
theorem drawOutOfRangeHalts : Obligations.DrawOutOfRangeHalts :=
  fun x y n s hn h => exec_drw_fault s x y n hn (by omega)

end Sys2Proof
end
